-- ==== Sys2Proof/Word.lean ====
section
/-! DEFINITION. The bit vectors of the block and their widths (00_scope.md R7, R8: every value is an unsigned
bit vector of a stated width, bit 0 the least significant). -/

namespace Sys2Proof

/-- A digit value, `DIGIT_W` = 4 bits, 0 to 15 (R7, R21). -/
abbrev Digit := BitVec 4

/-- A segment pattern, `PAT_W` = 8 bits: bits 6 to 0 the segments, bit 7 the colon bit (R7, R23). -/
abbrev Pattern := BitVec 8

/-- The value input, `VALUE_W` = 16 bits, unsigned (R7). -/
abbrev Value := BitVec 16

/-- A command word, `CMD_W` = 32 bits (R7, R61). -/
abbrev CmdWord := BitVec 32

/-- The data of a response, 32 bits (R70). -/
abbrev RespData := BitVec 32

/-- A 7-bit I2C address (R42). -/
abbrev Addr := BitVec 7

/-- A digit position 0 to 3: 0 is the leftmost and most significant (R21, R42). An index, never added to,
so a `Fin` and not a bit vector. -/
abbrev Pos := Fin 4

end Sys2Proof
end

