-- ==== Sys2Proof/Syntax.lean ====
section
/-! DEFINITION. The five commands, one constructor per row of spec/opcode_table.json, with the operands of
30_encoding.md R60. -/

namespace Sys2Proof

/-- A command of the block (R60). -/
inductive Instr where
  /-- `DISPLAY value, colon`: the whole display operation (R110). -/
  | display (value : Value) (colon : Bool)
  /-- `BCD4 value`: decompose into four decimal digits (R80). -/
  | bcd4 (value : Value)
  /-- `SETD i, d`: load one digit register (R81). -/
  | setd (i : Pos) (d : Digit)
  /-- `ENC colon`: encode the digits into patterns (R90). -/
  | enc (colon : Bool)
  /-- `XMIT`: send the four patterns (R100). -/
  | xmit
  deriving DecidableEq, Repr

end Sys2Proof
end

