-- ==== Sys2Proof/WellFormed.lean ====
section
/-! DEFINITION. Which operand numbers a command can have (30_encoding.md R62, R65, R68). `Instr` holds operands
of their fields' exact widths, so every `Instr` is well formed (R65: all operand values are legal); the check
bites on a command as it is WRITTEN, with numbers for operands, where an operand outside its field's range
"cannot be encoded" (R68). -/

namespace Sys2Proof

/-- A command as it is written, its operands plain numbers (R68). -/
inductive Source where
  | display (value colon : Nat)
  | bcd4 (value : Nat)
  | setd (i d : Nat)
  | enc (colon : Nat)
  | xmit
  deriving DecidableEq, Repr

/-- Every operand lies in its field's range (R62, R68). -/
def Source.wellFormed : Source → Bool
  | .display value colon => decide (value < 2 ^ 16) && decide (colon < 2)
  | .bcd4 value => decide (value < 2 ^ 16)
  | .setd i d => decide (i < 4) && decide (d < 16)
  | .enc colon => decide (colon < 2)
  | .xmit => true

/-- The operands of a command as the numbers the assembler text writes (R62, R68). -/
def Instr.toSource : Instr → Source
  | .display value colon => .display value.toNat colon.toNat
  | .bcd4 value => .bcd4 value.toNat
  | .setd i d => .setd i.val d.toNat
  | .enc colon => .enc colon.toNat
  | .xmit => .xmit

/-- A command is well formed when its operands, as numbers, fit their fields. -/
def wellFormed (i : Instr) : Bool := i.toSource.wellFormed

end Sys2Proof
end

