-- ==== Sys2Proof/Decode.lean ====
section
/-! DEFINITION. The command-word encoding (30_encoding.md R61 to R66): a total decoder of 32-bit words that
rejects a reserved encoding by name, and the encoder beside it, both from the tables of R61. A command word has
no byte order: it is presented as one 32-bit word (R49, R66). -/

namespace Sys2Proof

/-- Why a word is a reserved encoding (R64). -/
inductive DecodeError where
  /-- `op` is 0x0 or 0x6 to 0xF. -/
  | reservedOpcode
  /-- `op` is legal, and a bit its row shows as 0 is 1. -/
  | reservedBits
  deriving DecidableEq, Repr

/-- One row of the pattern table of R61: a word is this command exactly when `w AND mask = pattern`. -/
structure EncodingRow where
  mnemonic : String
  mask : CmdWord
  pattern : CmdWord
  build : CmdWord → Instr

/-- `value = w[15:0]` (R62). -/
def valueField (w : CmdWord) : Value := w.extractLsb' 0 16

/-- `i = w[5:4]` (R62). -/
def posField (w : CmdWord) : Pos := (w.extractLsb' 4 2).toFin

/-- `d = w[3:0]` (R62). -/
def digitField (w : CmdWord) : Digit := w.extractLsb' 0 4

/-- `op = w[31:28]` (R61). -/
def opField (w : CmdWord) : BitVec 4 := w.extractLsb' 28 4

/-- The pattern table of R61; `colon` is `w[16]` for `DISPLAY` and `w[0]` for `ENC` (R62). -/
def encodingRows : List EncodingRow :=
  [ { mnemonic := "DISPLAY", mask := 0xFFFE0000#32, pattern := 0x10000000#32,
      build := fun w => .display (valueField w) (w.getLsbD 16) },
    { mnemonic := "BCD4", mask := 0xFFFF0000#32, pattern := 0x20000000#32,
      build := fun w => .bcd4 (valueField w) },
    { mnemonic := "SETD", mask := 0xFFFFFFC0#32, pattern := 0x30000000#32,
      build := fun w => .setd (posField w) (digitField w) },
    { mnemonic := "ENC", mask := 0xFFFFFFFE#32, pattern := 0x40000000#32,
      build := fun w => .enc (w.getLsbD 0) },
    { mnemonic := "XMIT", mask := 0xFFFFFFFF#32, pattern := 0x50000000#32,
      build := fun _ => .xmit } ]

/-- Does the word match the row's pattern (R61)? -/
def rowMatches (w : CmdWord) (r : EncodingRow) : Bool := w &&& r.mask == r.pattern

/-- Is `op` one of the five of the opcode map (R63)? -/
def legalOpcode (op : BitVec 4) : Bool := decide (1 ≤ op.toNat) && decide (op.toNat ≤ 5)

/-- The decoder: every one of the 2^32 words is a command or a reserved encoding (R64, R65). -/
def decode (w : CmdWord) : Except DecodeError Instr :=
  match encodingRows.find? (rowMatches w) with
  | some r => .ok (r.build w)
  | none => .error (if legalOpcode (opField w) then .reservedBits else .reservedOpcode)

/-- The command word of a command: its opcode with its operand fields in place, every other bit 0
(R61; the word formulas of R80, R81, R90, R100, R110). -/
def encode : Instr → CmdWord
  | .display value colon => 0x1#4 ++ 0#11 ++ BitVec.ofBool colon ++ value
  | .bcd4 value => 0x2#4 ++ 0#12 ++ value
  | .setd i d => 0x3#4 ++ 0#22 ++ BitVec.ofFin (w := 2) i ++ d
  | .enc colon => 0x4#4 ++ 0#27 ++ BitVec.ofBool colon
  | .xmit => 0x5#4 ++ 0#28

/-- The command the decoder reads from a word whose low `nbits` bits are given as a number; every command is
exactly 32 bits (R66), so a number with a bit above them is none. -/
def decodeTableWord (nbits w : Nat) : Option Instr :=
  if w % 2 ^ nbits < 2 ^ 32 then
    match decode (BitVec.ofNat 32 (w % 2 ^ nbits)) with
    | .ok i => some i
    | .error _ => none
  else none

end Sys2Proof
end

