-- ==== Sys2Proof/Config.lean ====
section
/-! DEFINITION. What the configuration leaves open: the form of the Segment Table parameter with the laws every
admissible table obeys (10_state.md R26 to R28), and the free values of the registers after a reset action (R35).
The values the spec gives the parameters (00_scope.md R7) stand in Machine/Params.lean. -/

namespace Sys2Proof

/-- A Segment Table: 16 entries of 8 bits, a constant of the configuration and not state (R26). -/
abbrev SegTable := Vector Pattern 16

/-- The table read `SEG[d]`: every 4-bit index is in range, no side effect, no failure (R55). -/
def SegTable.read (seg : SegTable) (d : Digit) : Pattern := seg[d.toNat]'(by have := d.isLt; omega)

/-- The laws every admissible table obeys: the three stated entries (R27), ten different patterns for 0 to 9
(R28a), and bit 7 clear in every entry (R28b). -/
abbrev SegTable.Admissible (seg : SegTable) : Prop :=
  seg.read 0 = 0x3F ∧ seg.read 1 = 0x06 ∧ seg.read 8 = 0x7F ∧
  (∀ a b : Fin 10, seg.read (BitVec.ofNat 4 a) = seg.read (BitVec.ofNat 4 b) → a = b) ∧
  (∀ d : Fin 16, (seg.read (BitVec.ofNat 4 d)).getLsbD 7 = false)

namespace Config

/-- FREE VALUE (log 4). What `D[i]` holds after the `n`-th reset action: "unspecified (any 4-bit and any 8-bit
value; two resets need not give the same value)" (R35). -/
opaque resetDigit : Nat → Pos → Digit

/-- FREE VALUE (log 4). What `P[i]` holds after the `n`-th reset action (R35). -/
opaque resetPattern : Nat → Pos → Pattern

end Config

end Sys2Proof
end

