-- ==== Sys2Proof/Machine/State.lean ====
section
/-! DEFINITION. The state of the machine as plain data (10_state.md R20, R34; 70_reset_and_hazards.md R149), and
the state a run starts in (R35, R140). -/

namespace Sys2Proof.Machine

/-- The transport's answer to one emission (20_memory.md R41). -/
inductive Ack where
  | ok
  | fail
  deriving DecidableEq, Repr

/-- One entry `(i, addr, b, ack)` of `OUT` (R34a, R41). -/
structure OutEntry where
  pos : Pos
  addr : Addr
  byte : Pattern
  ack : Ack
  deriving DecidableEq, Repr

/-- The four statuses of a response (30_encoding.md R70); their 2-bit codes are `statusCode`. -/
inductive Status where
  | ok
  | invalidArg
  | transportFault
  | halted
  deriving DecidableEq, Repr

/-- The response of a command: `status` and 32 bits of `data` (R70). -/
structure Response where
  status : Status
  data : RespData
  deriving DecidableEq, Repr

/-- The three synchronous exceptions (60_exceptions.md R120). -/
inductive Exception where
  | invalidArg
  | transportFault
  | halted
  deriving DecidableEq, Repr

/-- What can reach the block from outside (00_scope.md R10). DESIGN CHOICE (log 1): the parameters of a step of
10_state.md R36 stand in the state as one list, in their order of arrival. -/
inductive Input where
  /-- The host presents a command word. -/
  | command (w : CmdWord)
  /-- The host asserts reset (R140). -/
  | reset
  /-- The transport answers the emission in flight. -/
  | answer (a : Ack)
  deriving DecidableEq, Repr

/-- The state: the block's 57 bits (R20), the emission in flight (R34b), the records a run leaves (R34a, R149),
and two fields of the model's own. -/
structure State where
  /-- `D[0..3]`, the digit registers (R21). -/
  d : Vector Digit 4
  /-- `DV[0..3]`: has `D[i]` been written since reset (R22)? -/
  dv : Vector Bool 4
  /-- `P[0..3]`, the pattern registers (R23). -/
  p : Vector Pattern 4
  /-- `PV[0..3]`: has `P[i]` been written since reset (R24)? -/
  pv : Vector Bool 4
  /-- `FAULT`, the sticky fault flag (R25). -/
  fault : Bool
  /-- The position of the emission that waits for its answer, inside `XMIT` or `DISPLAY` (R34b, R52). -/
  inFlight : Option Pos
  /-- `OUT`, every answered emission, oldest first (R34a). -/
  out : List OutEntry
  /-- Every response returned, oldest first (R70, R149); no register of the block (R36). -/
  responses : List Response
  /-- The model's own (log 1): the inputs still to arrive, the next one first. -/
  inputs : List Input
  /-- The model's own (log 4): how many reset actions there have been, the index of their free values. -/
  resets : Nat
  deriving DecidableEq, Repr

/-- The machine right after the reset a run starts with (R35, R149): flags clear, nothing in flight, nothing
recorded. DESIGN CHOICE (log 3): `D` and `P`, which the spec leaves unspecified, hold 0. -/
def State.reset : State where
  d := #v[0, 0, 0, 0]
  dv := #v[false, false, false, false]
  p := #v[0, 0, 0, 0]
  pv := #v[false, false, false, false]
  fault := false
  inFlight := none
  out := []
  responses := []
  inputs := []
  resets := 0

/-- The reasons a step can stop the machine: none. Every exception of the spec ends its command with a response
and a next state (60_exceptions.md R120 to R123), and a hang "is neither a fault nor a final state"
(70_reset_and_hazards.md R150), so nothing raises a fault and the type has no constructor. -/
inductive Fault where
  deriving DecidableEq, Repr

/-- The reasons a step has no meaning. -/
inductive Refusal where
  /-- An instruction with no meaning in the model yet, by its mnemonic. Raised by no arm: every command has its
  meaning. Safe. -/
  | notModelled (mnemonic : String)
  /-- The host presented a command while another one was running. Raised by `accept`. "What the block does if a
  second command is presented while one is running is not specified; a model gives such a host no move"
  (70_reset_and_hazards.md R145; 93_implementation_defined.md U3; log 5). Safe. -/
  | commandWhileRunning
  deriving DecidableEq, Repr

end Sys2Proof.Machine
end

