-- ==== Sys2Proof/Machine/Params.lean ====
section
/-! DEFINITION. The values of the block's parameters (00_scope.md R7). -/

namespace Sys2Proof.Machine

/-- `RADIX` (R7). -/
def radix : Value := 10

/-- `COLON_BIT` (R7). -/
def colonBit : Pattern := 0x80

/-- `COLON_POS`, the position that takes the colon (R7; 90_conflicts.md C3). -/
def colonPos : Pos := 1

/-- `DIGIT_ADDR[i] = 0x34 + i` (R7, R42). -/
def digitAddr (i : Pos) : Addr := 0x34 + BitVec.ofNat 7 i.val

/-- `SEG_STD`, the spec's default for the Segment Table parameter (R29; 92_eei_decisions.md D1;
90_conflicts.md C1; log 7). -/
def segStd : SegTable :=
  #v[0x3F, 0x06, 0x5B, 0x4F, 0x66, 0x6D, 0x7D, 0x07, 0x7F, 0x6F, 0x77, 0x7C, 0x39, 0x5E, 0x79, 0x71]

/-- The Segment Table the machine is configured with (R26; log 7). -/
def seg : SegTable := segStd

/-- The 2-bit code of a status (R7, R70). -/
def statusCode : Status → BitVec 2
  | .ok => 0
  | .invalidArg => 1
  | .transportFault => 2
  | .halted => 3

/-- The four positions in the order of emission, leftmost digit first (R46). -/
def positions : List Pos := [0, 1, 2, 3]

/-- The positions from `i` on, in the order of emission (R46, R101). -/
def positionsFrom (i : Pos) : List Pos := positions.drop i.val

end Sys2Proof.Machine
end

