-- ==== Sys2Proof/Machine/Flags.lean ====
section
/-! DEFINITION. The flags of the block: the valid flags and `FAULT` are all of them (10_state.md R22, R24, R25);
there are no condition codes. -/

namespace Sys2Proof.Machine

/-- Are all four valid flags 1? The guard of `ENC` over `DV` and of `XMIT` over `PV` (R90, R100). -/
def allValid (v : Vector Bool 4) : Bool := v[0] && v[1] && v[2] && v[3]

/-- Four valid flags, all 1. -/
def allSet : Vector Bool 4 := #v[true, true, true, true]

/-- Four valid flags, all 0 (R35). -/
def allClear : Vector Bool 4 := #v[false, false, false, false]

/-- `FAULT <- 1` (R25, R101). -/
def setFault (s : State) : State := { s with fault := true }

end Sys2Proof.Machine
end

