-- ==== Sys2Proof/Machine/Operands.lean ====
section
/-! DEFINITION. The pure functions of the commands: the Segment Encoder (41_segment_encode.md R91), its inverse
for stating properties (10_state.md R31), and the packing of response data (30_encoding.md R70). -/

namespace Sys2Proof.Machine

/-- `seg7(d, c) = SEG[d] OR (c ? 0x80 : 0x00)` over a Segment Table (R91). -/
def seg7 (t : SegTable) (d : Digit) (c : Bool) : Pattern := t.read d ||| (if c then colonBit else 0)

/-- `DEC7(p)`: the `d` in 0..9 with `SEG[d] = p[6:0]`, bit 7 ignored; `none` where the spec leaves it undefined.
A function for stating properties; the block does not compute it (R31). -/
def dec7 (t : SegTable) (p : Pattern) : Option Nat :=
  (List.range 10).find? (fun n => t.read (BitVec.ofNat 4 n) == p &&& 0x7F)

/-- `{0x0000, D[0], D[1], D[2], D[3]}` (R70). -/
def packDigits (d : Vector Digit 4) : RespData := 0#16 ++ d[0] ++ d[1] ++ d[2] ++ d[3]

/-- `{P[0], P[1], P[2], P[3]}` (R70). -/
def packPatterns (p : Vector Pattern 4) : RespData := p[0] ++ p[1] ++ p[2] ++ p[3]

/-- The decimal number four digits stand for, the first one the thousands (40_bcd_decompose.md R82). -/
def decimalOf (d : Vector Digit 4) : Nat := 1000 * d[0].toNat + 100 * d[1].toNat + 10 * d[2].toNat + d[3].toNat

/-- The decimal number four patterns show, read back through `DEC7` (R93a, R112); `none` where one of them is
no digit's. -/
def decimalShown (t : SegTable) (p : Vector Pattern 4) : Option Nat :=
  match dec7 t p[0], dec7 t p[1], dec7 t p[2], dec7 t p[3] with
  | some a, some b, some c, some e => some (1000 * a + 100 * b + 10 * c + e)
  | _, _, _, _ => none

end Sys2Proof.Machine
end

