-- ==== Sys2Proof/Machine/Ops.lean ====
section
/-! DEFINITION. The shared operations of the commands: register writes, the response, raising an exception,
the reset action, the emission, and the checks before every command. -/

namespace Sys2Proof.Machine

/-- `D[i] <- x` with `DV[i] <- 1`: every write of `D[i]` sets `DV[i]` (10_state.md R22). -/
def writeDigit (i : Pos) (x : Digit) (s : State) : State := { s with d := s.d.set i x, dv := s.dv.set i true }

/-- `P[i] <- b` with `PV[i] <- 1` (R24). -/
def writePattern (i : Pos) (b : Pattern) (s : State) : State :=
  { s with p := s.p.set i b, pv := s.pv.set i true }

/-- `respond(status, data)`: end the command and give the host the response (00_scope.md R9, 30_encoding.md R70). -/
def respond (st : Status) (data : RespData) (s : State) : State :=
  { s with inFlight := none, responses := s.responses ++ [⟨st, data⟩] }

/-- `raise e`: the one entry of every exception. Nothing is saved and control goes nowhere; `TransportFault` sets
`FAULT`, the other two change nothing; the response has the exception's status and data 0
(60_exceptions.md R120 to R123, R126). -/
def raise (e : Exception) (s : State) : State :=
  match e with
  | .invalidArg => respond .invalidArg 0 s
  | .transportFault => respond .transportFault 0 (setFault s)
  | .halted => respond .halted 0 s

/-- The reset action of the host, the only way out of the halted state and of a hang (R127, 70 R140, R141).
`FAULT`, `DV`, `PV` are cleared, a running command is abandoned with no response, `OUT` is untouched; `D` and `P`
become unspecified: FREE VALUES (log 4). -/
def resetBlock (s : State) : State :=
  { s with
    d := #v[Config.resetDigit s.resets 0, Config.resetDigit s.resets 1,
            Config.resetDigit s.resets 2, Config.resetDigit s.resets 3]
    dv := allClear
    p := #v[Config.resetPattern s.resets 0, Config.resetPattern s.resets 1,
            Config.resetPattern s.resets 2, Config.resetPattern s.resets 3]
    pv := allClear
    fault := false
    inFlight := none
    resets := s.resets + 1 }

/-- The entry `(i, DIGIT_ADDR[i], b, ack)` of an answered emission (20_memory.md R41). -/
def outEntry (i : Pos) (b : Pattern) (a : Ack) : OutEntry := ⟨i, digitAddr i, b, a⟩

/-- `Emit(i, b)`: one single-byte write of `b` to position `i`. Where the next input is the transport's answer, the
entry is appended to `OUT` and the answer returned; where it is not, there is no answer yet (`none`) and nothing is
appended (20_memory.md R41, R51, R52). -/
def emit (i : Pos) (b : Pattern) (s : State) : Option (Ack × State) :=
  match s.inputs with
  | .answer a :: rest => some (a, { s with inputs := rest, out := s.out ++ [outEntry i b a] })
  | _ => none

/-- The emit stage over the positions that remain: in order, each answered before the next is issued, stopping at
the first `FAIL` with `FAULT` set; after the last, the response `(OK, 0)` of `XMIT` and `DISPLAY`. An emission with
no answer yet leaves the block inside its command, waiting at that position (42_transmit.md R101, 20_memory.md R46,
R52, 60_exceptions.md R134, R135). -/
def emitFrom : List Pos → State → State
  | [], s => respond .ok 0 s
  | i :: rest, s =>
    match emit i s.p[i] s with
    | some (.ok, s') => emitFrom rest s'
    | some (.fail, s') => raise .transportFault s'
    | none => { s with inFlight := some i }

/-- `EmitAll()` and the response after it (R101, R100, R110). -/
def emitAll (s : State) : State := emitFrom positions s

/-- The transport's answer arrives: the command that waits goes on from its position. With no emission in flight
the answer belongs to none and has no effect (70 R140; DEDUCED, log 9). -/
def answerArrives (s : State) : State :=
  match s.inFlight with
  | some i => emitFrom (positionsFrom i) s
  | none => { s with inputs := s.inputs.tail }

/-- The checks before every presented word, in order: a command still running leaves the word without a meaning
(70 R145; log 5); `FAULT = 1` gives `Halted`; then the command's own `body` (60_exceptions.md R123, R125). -/
def accept (body : State → State) (s : State) : Host.Outcome State Fault Refusal :=
  match s.inFlight with
  | some _ => .refused .commandWhileRunning
  | none => .next (if s.fault then raise .halted s else body s)

end Sys2Proof.Machine
end

