-- ==== Sys2Proof/Machine/Digits.lean ====
section
/-! DEFINITION. The BCD decomposition unit: `BCD4` and `SETD` (40_bcd_decompose.md R80, R81). -/

namespace Sys2Proof.Machine

/-- The loop of R80 over the positions that remain: `D[i] <- (t mod 10)[3:0]; DV[i] <- 1; t <- t div 10`. -/
def decomposeLoop : List Pos → Value → State → State
  | [], _, s => s
  | i :: rest, t, s => decomposeLoop rest (t / radix) (writeDigit i ((t % radix).setWidth 4) s)

/-- Step 1 of the display algorithm: index 3 first, least significant digit there (R80; 90_conflicts.md C2). -/
def decompose (value : Value) (s : State) : State := decomposeLoop [3, 2, 1, 0] value s

/-- What `BCD4` does once the checks have passed (R80). -/
def bcd4Body (value : Value) (s : State) : State :=
  let t := decompose value s
  respond .ok (packDigits t.d) t

/-- `BCD4 value` (R80). -/
def execBcd4 (value : Value) (s : State) : Host.Outcome State Fault Refusal := accept (bcd4Body value) s

/-- What `SETD` does once the checks have passed (R81). -/
def setdBody (i : Pos) (x : Digit) (s : State) : State := respond .ok 0 (writeDigit i x s)

/-- `SETD i, d` (R81). -/
def execSetd (i : Pos) (x : Digit) (s : State) : Host.Outcome State Fault Refusal := accept (setdBody i x) s

end Sys2Proof.Machine
end

