-- ==== Sys2Proof/Machine/Display.lean ====
section
/-! DEFINITION. The composite display operation: `DISPLAY` (43_display.md R110). -/

namespace Sys2Proof.Machine

/-- Step 2 of R110 over the positions that remain: `P[i] <- SEG[D[i]]; PV[i] <- 1`. -/
def lookUp (t : SegTable) : List Pos → State → State
  | [], s => s
  | i :: rest, s => lookUp t rest (writePattern i (t.read s.d[i]) s)

/-- Step 3 of R110: `if colon = 1: P[1] <- P[1] OR 0x80`. -/
def overlayColon (colon : Bool) (s : State) : State :=
  if colon then { s with p := s.p.set colonPos (s.p[colonPos] ||| colonBit) } else s

/-- Steps 1 to 3 of R110, which cannot fail and complete before the first emission. -/
def prepare (t : SegTable) (value : Value) (colon : Bool) (s : State) : State :=
  overlayColon colon (lookUp t positions (decompose value s))

/-- What `DISPLAY` does once the checks have passed, over a Segment Table (R110). -/
def displayBody (t : SegTable) (value : Value) (colon : Bool) (s : State) : State :=
  emitAll (prepare t value colon s)

/-- `DISPLAY value, colon` (R110). -/
def execDisplay (value : Value) (colon : Bool) (s : State) : Host.Outcome State Fault Refusal :=
  accept (displayBody seg value colon) s

end Sys2Proof.Machine
end

