-- ==== Sys2Proof/Machine/Encoder.lean ====
section
/-! DEFINITION. The Segment Encoder: `ENC` (41_segment_encode.md R90, R92). -/

namespace Sys2Proof.Machine

/-- The lanes of R90 over the positions that remain: `P[i] <- seg7(D[i], (i = 1) and (colon = 1)); PV[i] <- 1`. -/
def encodeLanes (t : SegTable) (colon : Bool) : List Pos → State → State
  | [], s => s
  | i :: rest, s => encodeLanes t colon rest (writePattern i (seg7 t s.d[i] (i == colonPos && colon)) s)

/-- What `ENC` does once the checks have passed, over a Segment Table (R90). -/
def encBody (t : SegTable) (colon : Bool) (s : State) : State :=
  if allValid s.dv then
    let u := encodeLanes t colon positions s
    respond .ok (packPatterns u.p) u
  else raise .invalidArg s

/-- `ENC colon` (R90). -/
def execEnc (colon : Bool) (s : State) : Host.Outcome State Fault Refusal := accept (encBody seg colon) s

end Sys2Proof.Machine
end

