-- ==== Sys2Proof/Machine/Transmit.lean ====
section
/-! DEFINITION. The Transmit Sequencer: `XMIT` (42_transmit.md R100). -/

namespace Sys2Proof.Machine

/-- What `XMIT` does once the checks have passed (R100). -/
def xmitBody (s : State) : State := if allValid s.pv then emitAll s else raise .invalidArg s

/-- `XMIT` (R100). -/
def execXmit (s : State) : Host.Outcome State Fault Refusal := accept xmitBody s

end Sys2Proof.Machine
end

