-- ==== Sys2Proof/Machine/Dispatch.lean ====
section
/-! DEFINITION. One arm per command (30_encoding.md R60): a direct call of its meaning. -/

namespace Sys2Proof.Machine

def exec (i : Instr) (s : State) : Host.Outcome State Fault Refusal :=
  match i with
  | .display value colon => Sys2Proof.Machine.execDisplay value colon s
  | .bcd4 value => Sys2Proof.Machine.execBcd4 value s
  | .setd pos d => Sys2Proof.Machine.execSetd pos d s
  | .enc colon => Sys2Proof.Machine.execEnc colon s
  | .xmit => Sys2Proof.Machine.execXmit s

end Sys2Proof.Machine
end

