-- ==== Sys2Proof/Machine/Fetch.lean ====
section
/-! DEFINITION. What becomes of a word the host presents. The block fetches nothing: it has no program counter, and
the order of execution is the order of presentation (10_state.md R33). -/

namespace Sys2Proof.Machine

/-- A presented word: a command is executed, a reserved encoding is answered `INVALID_ARG` (30_encoding.md R64),
both after the check for the halted state (60_exceptions.md R125, in `accept`). -/
def present (w : CmdWord) (s : State) : Host.Outcome State Fault Refusal :=
  match decode w with
  | .ok i => exec i s
  | .error _ => accept (raise .invalidArg) s

/-- The state in which the host presents the word `w` next: it is put before every other input, and no command is
still running (70 R145). -/
def presentNext (w : CmdWord) (s : State) : State :=
  { s with inputs := .command w :: s.inputs, inFlight := none }

end Sys2Proof.Machine
end

