-- ==== Sys2Proof/Machine/Step.lean ====
section
/-! DEFINITION. One step: the next input reaches the block. A presented command runs to its end in one step, drawing
the transport's answers from the inputs that follow it (92_eei_decisions.md D22), or to the emission that has no
answer yet. -/

namespace Sys2Proof.Machine

/-- One step. With no input the block waits: idle, for a command; inside a command, for an answer, without bound
(20_memory.md R52, 70 R150; log 6). -/
def step (s : State) : Host.Outcome State Fault Refusal :=
  match s.inputs with
  | [] => .next s
  | .reset :: rest => .next (resetBlock { s with inputs := rest })
  | .answer _ :: _ => .next (answerArrives s)
  | .command w :: rest => present w { s with inputs := rest }

/-- `s` with the word given by the low `nbits` bits of `w` presented next. A program is a list of commands the host
keeps and presents (10_state.md R33; log 1), so this stands for the host's move. -/
def State.withFetchWord (s : State) (nbits w : Nat) : State := presentNext (BitVec.ofNat 32 (w % 2 ^ nbits)) s

end Sys2Proof.Machine
end

