-- ==== Sys2Proof/Machine/Assembler.lean ====
section
/-! DEFINITION. The textual form of a command (30_encoding.md R68): the mnemonic in capitals, its operands separated
by commas, each a decimal or `0x` number; one command a line; `;` starts a comment. Over lists of characters. -/

namespace Sys2Proof.Machine

/-- Why a line is no command. An operand out of range "is an assembler error (it cannot be encoded), not a
command" (R68). -/
inductive AsmError where
  | unknownCommand
  | badOperand
  | operandOutOfRange
  deriving DecidableEq, Repr

/-- Space and tab separate (DESIGN CHOICE, log 10). -/
def isBlank (c : Char) : Bool := c == ' ' || c == '\t'

/-- The text without the blanks at its two ends. -/
def trimBlanks (cs : List Char) : List Char := ((cs.dropWhile isBlank).reverse.dropWhile isBlank).reverse

/-- The text before each comma and after the last one. -/
def splitCommas : List Char → List (List Char)
  | [] => [[]]
  | c :: cs =>
    if c == ',' then [] :: splitCommas cs
    else
      match splitCommas cs with
      | [] => [[c]]
      | h :: t => (c :: h) :: t

/-- The value of a digit; hexadecimal digits in either case (DESIGN CHOICE, log 10). -/
def digitOfChar (c : Char) : Option Nat :=
  if 48 ≤ c.toNat ∧ c.toNat ≤ 57 then some (c.toNat - 48)
  else if 65 ≤ c.toNat ∧ c.toNat ≤ 70 then some (c.toNat - 55)
  else if 97 ≤ c.toNat ∧ c.toNat ≤ 102 then some (c.toNat - 87)
  else none

/-- The number the digits write in the given base, after the digits already read. -/
def readDigits (base : Nat) : List Char → Nat → Option Nat
  | [], n => some n
  | c :: cs, n =>
    match digitOfChar c with
    | some k => if k < base then readDigits base cs (n * base + k) else none
    | none => none

/-- An operand: a decimal or `0x` hexadecimal number (R68). -/
def readNumber (cs : List Char) : Option Nat :=
  match cs with
  | [] => none
  | ['0', 'x'] => none
  | '0' :: 'x' :: rest => readDigits 16 rest 0
  | _ => readDigits 10 cs 0

/-- The operands after the mnemonic: none, or numbers separated by commas. -/
def readOperands (cs : List Char) : Option (List Nat) :=
  match trimBlanks cs with
  | [] => some []
  | ops => (splitCommas ops).mapM (fun o => readNumber (trimBlanks o))

/-- The written command of a mnemonic and its operands (R60, R68). -/
def sourceOf (mnemonic : List Char) (operands : List Nat) : Except AsmError Source :=
  if mnemonic = ['D', 'I', 'S', 'P', 'L', 'A', 'Y'] then
    match operands with
    | [value, colon] => .ok (.display value colon)
    | _ => .error .badOperand
  else if mnemonic = ['B', 'C', 'D', '4'] then
    match operands with
    | [value] => .ok (.bcd4 value)
    | _ => .error .badOperand
  else if mnemonic = ['S', 'E', 'T', 'D'] then
    match operands with
    | [i, d] => .ok (.setd i d)
    | _ => .error .badOperand
  else if mnemonic = ['E', 'N', 'C'] then
    match operands with
    | [colon] => .ok (.enc colon)
    | _ => .error .badOperand
  else if mnemonic = ['X', 'M', 'I', 'T'] then
    match operands with
    | [] => .ok .xmit
    | _ => .error .badOperand
  else .error .unknownCommand

/-- The command of operands that are in range. -/
def instrOfSource : Source → Instr
  | .display value colon => .display (BitVec.ofNat 16 value) (colon == 1)
  | .bcd4 value => .bcd4 (BitVec.ofNat 16 value)
  | .setd i d => .setd (Fin.ofNat 4 i) (BitVec.ofNat 4 d)
  | .enc colon => .enc (colon == 1)
  | .xmit => .xmit

/-- The command a written command stands for; an operand out of its field's range is an error (R68). -/
def assembleSource (c : Source) : Except AsmError Instr :=
  if c.wellFormed then .ok (instrOfSource c) else .error .operandOutOfRange

/-- One line of text: no command where it is blank or only a comment (R68). -/
def assembleLine (line : List Char) : Except AsmError (Option Instr) :=
  match trimBlanks (line.takeWhile (fun c => c != ';')) with
  | [] => .ok none
  | text =>
    match readOperands (text.dropWhile (fun c => !isBlank c)) with
    | none => .error .badOperand
    | some operands =>
      match sourceOf (text.takeWhile (fun c => !isBlank c)) operands with
      | .error e => .error e
      | .ok c =>
        match assembleSource c with
        | .error e => .error e
        | .ok i => .ok (some i)

end Sys2Proof.Machine
end

