-- ==== Sys2Proof/Machine/Panel.lean ====
section
/-! DEFINITION. What the record of emissions lets one assume of the display (20_memory.md R53,
70_reset_and_hazards.md R146). No state of the block: the device is outside it (00_scope.md R5). It reads `OUT`
alone, so an emission that has no entry there is taken as one that did not reach the device (log 15). -/

namespace Sys2Proof.Machine

/-- The effect of one entry of `OUT` on what position `i` may show, the possibilities listed: after `OK` the byte;
after `FAIL` the byte or what was there before (R53; 93_implementation_defined.md U5). -/
def showEntry (i : Pos) (before : List (Option Pattern)) (e : OutEntry) : List (Option Pattern) :=
  if e.pos = i then
    match e.ack with
    | .ok => [some e.byte]
    | .fail => some e.byte :: before
  else before

/-- What position `i` may show after these emissions; `none` stands for what it showed before the first of them.
DESIGN CHOICE, unsafe (log 15): an emission that waits for its answer, or that a reset abandoned, has no entry in `OUT`
and counts here as not written, while the spec leaves open whether its byte reached the device
(70_reset_and_hazards.md R140; 93_implementation_defined.md U4). -/
def mayShow (i : Pos) (out : List OutEntry) : List (Option Pattern) := out.foldl (showEntry i) [none]

end Sys2Proof.Machine
end

