-- ==== Sys2Proof/Safety.lean ====
section
/-! DEFINITION. The terms claims use: when a command may be presented and when a run has ended well, the invariant
of the machine, and which states no host can tell apart. -/

namespace Sys2Proof.Machine

/-- No command is running: the host may present one (70_reset_and_hazards.md R145). -/
abbrev State.Idle (s : State) : Prop := s.inFlight = none

/-- Idle and not halted: a presented command is executed (60_exceptions.md R125). -/
abbrev State.Ready (s : State) : Prop := s.inFlight = none ∧ s.fault = false

/-- The run has ended well: nothing is left to present or answer, no command is running, `FAULT = 0` (R149). -/
abbrev State.EndedWell (s : State) : Prop := s.inputs = [] ∧ s.inFlight = none ∧ s.fault = false

/-- `b` is a pattern position `i` can hold: a table entry, with the colon bit only at position 1. "A pattern comes
only from the Segment Table" (00_scope.md R6; 41_segment_encode.md R90). -/
def TablePattern (t : SegTable) (i : Pos) (b : Pattern) : Prop :=
  ∃ (d : Digit) (c : Bool), b = seg7 t d (i == colonPos && c)

/-- May position `i` be emitted when `last` is the last entry of `OUT`? Position 0 always; another only straight
after its left neighbour was answered `OK` (20_memory.md R46b, R46d). -/
def MayFollow (last : Option OutEntry) (i : Pos) : Prop :=
  i = 0 ∨ ∃ e, last = some e ∧ e.ack = .ok ∧ e.pos.val + 1 = i.val

/-- Every entry may follow the one before it (R46). -/
def Chained : Option OutEntry → List OutEntry → Prop
  | _, [] => True
  | last, e :: rest => MayFollow last e.pos ∧ Chained (some e) rest

/-- The invariant every step keeps. -/
structure State.Inv (s : State) : Prop where
  /-- The four `PV` flags are always equal (10_state.md R24). -/
  pvEqual : s.pv = allSet ∨ s.pv = allClear
  /-- Valid patterns come from the table, the colon bit only at position 1 (R6, R90). -/
  patterns : s.pv = allSet → ∀ i : Pos, TablePattern seg i s.p[i]
  /-- An emission is in flight only inside `XMIT` or `DISPLAY`: `FAULT` clear, patterns valid, and its position the
  next one (R34b, R46d). -/
  running : ∀ i, s.inFlight = some i → s.fault = false ∧ s.pv = allSet ∧ MayFollow s.out.getLast? i
  /-- Every entry of `OUT` carries its position's address and a table pattern (R34a, R42). -/
  entries : ∀ e ∈ s.out, e.addr = digitAddr e.pos ∧ TablePattern seg e.pos e.byte
  /-- `OUT` is in the order of R46. -/
  order : Chained none s.out
  /-- While `FAULT = 1` the last entry of `OUT` is the failed emission (R25, R122). -/
  faulted : s.fault = true → ∃ e, s.out.getLast? = some e ∧ e.ack = .fail

/-- Two states no host and no transport can tell apart: they agree on everything but the registers whose valid
flag is 0, and the model's own count of resets (10_state.md R35; 93_implementation_defined.md U1). -/
structure Indistinguishable (s t : State) : Prop where
  dv : s.dv = t.dv
  pv : s.pv = t.pv
  fault : s.fault = t.fault
  inFlight : s.inFlight = t.inFlight
  out : s.out = t.out
  responses : s.responses = t.responses
  inputs : s.inputs = t.inputs
  d : ∀ i : Pos, s.dv[i] = true → s.d[i] = t.d[i]
  p : ∀ i : Pos, s.pv[i] = true → s.p[i] = t.p[i]

/-- Two outcomes agree: both a next state, related; or both stopped for the same reason. -/
def OutcomesAgree (R : State → State → Prop) :
    Host.Outcome State Fault Refusal → Host.Outcome State Fault Refusal → Prop
  | .next s, .next t => R s t
  | .fault a, .fault b => a = b
  | .refused a, .refused b => a = b
  | _, _ => False

end Sys2Proof.Machine
end

