-- ==== Sys2Proof/Certificates/Slice0/Obligations.lean ====
section
/-! DEFINITION. The statements for the provers, from the numbered rules of spec/, and the words they are written in. -/

namespace Sys2Proof.Machine

/-- `n` answers `OK` in a row. -/
def answersOk (n : Nat) : List Input := List.replicate n (.answer .ok)

/-- The next input, if there is one, is no answer of the transport. -/
def NoAnswerNext (env : List Input) : Prop := ∀ a rest, env ≠ .answer a :: rest

/-- The entry of `OUT` for position `i` of the patterns `p`, at address `0x34 + i` (R34, R42). -/
def entryAt (p : Vector Pattern 4) (a : Ack) (i : Pos) : OutEntry := ⟨i, 0x34 + BitVec.ofNat 7 i.val, p[i], a⟩

/-- The entries of positions 0 to `n - 1`, in that order, each answered `OK`. -/
def sentOk (p : Vector Pattern 4) (n : Nat) : List OutEntry :=
  (([0, 1, 2, 3] : List Pos).take n).map (entryAt p .ok)

/-- `s` after a response of this status with data 0. -/
def answered (st : Status) (s : State) : State := { s with responses := s.responses ++ [⟨st, 0⟩] }

/-- How an emit stage over the patterns of `u` ends (R101): four answers `OK`; or `FAIL` at position `k`. -/
def EmitStageEnds (u : State) (o : Host.Outcome State Fault Refusal) : Prop :=
  (∀ rest, u.inputs = answersOk 4 ++ rest →
    o = .next (answered .ok { u with inputs := rest, inFlight := none, out := u.out ++ sentOk u.p 4 })) ∧
  (∀ (k : Pos) rest, u.inputs = answersOk k.val ++ .answer .fail :: rest →
    o = .next (answered .transportFault
      { u with inputs := rest, inFlight := none, fault := true, out := u.out ++ sentOk u.p k.val ++ [entryAt u.p .fail k] }))

/-- Where an emit stage over the patterns of `u` waits (R52): the answers stop before position `k`'s. -/
def EmitStageWaits (u : State) (o : Host.Outcome State Fault Refusal) : Prop :=
  ∀ (k : Pos) rest, u.inputs = answersOk k.val ++ rest → NoAnswerNext rest →
    o = .next { u with inputs := rest, inFlight := some k, out := u.out ++ sentOk u.p k.val }

/-- The four digits of a value, thousands first: the closed form of R80. -/
def digitsOf (v : Value) : Vector Digit 4 :=
  #v[(v / 1000 % 10).setWidth 4, (v / 100 % 10).setWidth 4, (v / 10 % 10).setWidth 4, (v % 10).setWidth 4]

/-- The four patterns of four digits, the colon bit OR-ed into the second: R90 spelt out. -/
def patternsOf (t : SegTable) (d : Vector Digit 4) (colon : Bool) : Vector Pattern 4 :=
  #v[t.read d[0], t.read d[1] ||| (if colon then 0x80 else 0), t.read d[2], t.read d[3]]

/-- `s` with the digits of `v` and their patterns in the registers, all valid: after steps 1 to 3 of R110. -/
def prepared (v : Value) (colon : Bool) (s : State) : State :=
  { s with d := digitsOf v, dv := #v[true, true, true, true],
           p := patternsOf seg (digitsOf v) colon, pv := #v[true, true, true, true] }

/-- The host presents these commands one after the other, each as its word. -/
def hostSends (l : List Instr) : List Input := l.map (fun i => .command (encode i))

/-- A list of commands executed one after the other, as long as each gives a next state. -/
def execAll : List Instr → State → Option State
  | [], s => some s
  | i :: rest, s =>
    match exec i s with
    | .next t => execAll rest t
    | _ => none

end Sys2Proof.Machine

open Sys2Proof Sys2Proof.Machine

/-! ## Encoding -/

/-- R61, R62: the decoder reads back every command from its word, each operand at every value. -/
def Obligations.DecodeOfEncode : Prop := ∀ i : Instr, wellFormed i = true → decode (encode i) = .ok i

/-- R61: no word but `encode i` decodes to `i`: every bit of a command word counts. -/
def Obligations.EncodeOfDecode : Prop := ∀ (w : CmdWord) (i : Instr), decode w = .ok i → encode i = w

/-- R64: a word is a reserved encoding exactly when it matches none of the five patterns of R61, that is when its
`op` is 0x0 or above 0x5, or a must-be-zero bit of a legal `op` is 1; presented, it is answered `INVALID_ARG` and
nothing else changes. -/
def Obligations.ReservedEncodings : Prop :=
  ∀ w : CmdWord,
    ((∃ e, decode w = .error e) ↔
      w &&& 0xFFFE0000 ≠ 0x10000000 ∧ w &&& 0xFFFF0000 ≠ 0x20000000 ∧ w &&& 0xFFFFFFC0 ≠ 0x30000000 ∧
      w &&& 0xFFFFFFFE ≠ 0x40000000 ∧ w &&& 0xFFFFFFFF ≠ 0x50000000) ∧
    (decode w = .error .reservedOpcode ↔ w.extractLsb' 28 4 = 0 ∨ 6 ≤ (w.extractLsb' 28 4).toNat) ∧
    ∀ (s : State) rest, s.Ready → s.inputs = .command w :: rest → (∃ e, decode w = .error e) →
      step s = .next (answered .invalidArg { s with inputs := rest })

/-- R61: the five patterns are disjoint. -/
def Obligations.PatternsDisjoint : Prop :=
  ∀ (w : CmdWord) (a b : EncodingRow), a ∈ encodingRows → b ∈ encodingRows →
    rowMatches w a = true → rowMatches w b = true → a.pattern = b.pattern

/-- The example words of R80, R81, R90, R100, R110 and the reserved words of 95_test_vectors.md 2.6. -/
def Obligations.ExampleWordsDecode : Prop :=
  decode 0x200004D2 = .ok (.bcd4 1234) ∧ decode 0x3000002C = .ok (.setd 2 0xC) ∧
  decode 0x40000001 = .ok (.enc true) ∧ decode 0x50000000 = .ok .xmit ∧
  decode 0x10010708 = .ok (.display 1800 true) ∧ decode 0x00000000 = .error .reservedOpcode ∧
  decode 0x10020000 = .error .reservedBits ∧ decode 0x50000001 = .error .reservedBits

/-- R68: a written command is a command exactly when every operand is in its field's range, and it is then the
command with those operands. -/
def Obligations.OutOfRangeOperandIsAssemblerError : Prop :=
  ∀ c : Source,
    (c.wellFormed = true → ∃ i, assembleSource c = .ok i ∧ i.toSource = c) ∧
    (c.wellFormed = false → assembleSource c = .error .operandOutOfRange)

/-! ## A step -/

/-- R33: a step runs the command the presented word decodes to, on the state without that input. -/
def Obligations.StepRunsDecodedCommand : Prop :=
  ∀ (s : State) (w : CmdWord) rest (i : Instr), s.inputs = .command w :: rest → decode w = .ok i →
    step s = exec i { s with inputs := rest }

/-- R125: the order of the checks for a presented word: halted, reserved, valid flags, then the command runs and
reports at most a transport fault. -/
def Obligations.OrderOfChecks : Prop :=
  ∀ (s : State) (w : CmdWord) rest, s.Idle → s.inputs = .command w :: rest →
    (s.fault = true → step s = .next (answered .halted { s with inputs := rest })) ∧
    (s.fault = false → ∀ e, decode w = .error e → step s = .next (answered .invalidArg { s with inputs := rest })) ∧
    (s.fault = false → ∀ c, decode w = .ok (.enc c) → (∃ i : Pos, s.dv[i] = false) →
      step s = .next (answered .invalidArg { s with inputs := rest })) ∧
    (s.fault = false → decode w = .ok .xmit → (∃ i : Pos, s.pv[i] = false) →
      step s = .next (answered .invalidArg { s with inputs := rest })) ∧
    (s.fault = false → ∀ i, decode w = .ok i → (∀ c, i = .enc c → ∀ j : Pos, s.dv[j] = true) →
      (i = .xmit → ∀ j : Pos, s.pv[j] = true) →
      ∃ t, step s = .next t ∧
        (t.fault = true ↔ t.responses = s.responses ++ [⟨.transportFault, 0⟩]) ∧
        (t.fault = false → t.inFlight = none → ∃ x, t.responses = s.responses ++ [⟨.ok, x⟩]))

/-- R70, R71: a presented word is answered by exactly one response, or waits for an answer with none; the data is 0
but for `BCD4` and `ENC` with status `OK`. -/
def Obligations.OneResponsePerWord : Prop :=
  ∀ (s t : State) (w : CmdWord) rest, s.inputs = .command w :: rest → step s = .next t →
    (∃ k, t.inFlight = some k ∧ t.responses = s.responses) ∨
    (t.inFlight = none ∧ ∃ r : Response, t.responses = s.responses ++ [r] ∧
      (r.status ≠ .ok → r.data = 0) ∧
      ((∀ v, decode w ≠ .ok (.bcd4 v)) → (∀ c, decode w ≠ .ok (.enc c)) → r.data = 0))

/-- R70: the numeric status codes. -/
def Obligations.StatusCodes : Prop :=
  statusCode .ok = 0 ∧ statusCode .invalidArg = 1 ∧ statusCode .transportFault = 2 ∧ statusCode .halted = 3

/-- R145, log 5 (the model's choice): a command presented while one is running has no meaning. -/
def Obligations.CommandWhileRunningRefused : Prop :=
  ∀ (s : State) (k : Pos) (w : CmdWord) rest, s.inFlight = some k → s.inputs = .command w :: rest →
    step s = .refused .commandWhileRunning

/-- R52, R150, log 6 (the model's choice of form): with nothing to reach it the block waits, also inside a command,
for ever: a step changes nothing. -/
def Obligations.WaitingChangesNothing : Prop := ∀ s : State, s.inputs = [] → step s = .next s

/-- Log 9 (the model's choice): an answer that belongs to no emission has no effect. -/
def Obligations.StrayAnswerHasNoEffect : Prop :=
  ∀ (s : State) (a : Ack) rest, s.Idle → s.inputs = .answer a :: rest → step s = .next { s with inputs := rest }

/-! ## The commands -/

/-- R80: `BCD4` with its encoding: the digits in closed form, `DV` set, the packed response, nothing else changed. -/
def Obligations.Bcd4Result : Prop :=
  ∀ (v : Value) (s : State), encode (.bcd4 v) = 0x20000000 ||| v.setWidth 32 ∧
    (s.Ready → exec (.bcd4 v) s = .next { s with
      d := digitsOf v
      dv := #v[true, true, true, true]
      responses := s.responses ++
        [⟨.ok, 0#16 ++ (digitsOf v)[0] ++ (digitsOf v)[1] ++ (digitsOf v)[2] ++ (digitsOf v)[3]⟩] })

/-- R81: `SETD` with its encoding: one digit and its flag written, nothing else changed. -/
def Obligations.SetdResult : Prop :=
  ∀ (i : Pos) (x : Digit) (s : State),
    encode (.setd i x) = 0x30000000 ||| (BitVec.ofNat 32 i.val <<< 4) ||| x.setWidth 32 ∧
    (s.Ready → exec (.setd i x) s = .next (answered .ok { s with d := s.d.set i x, dv := s.dv.set i true }))

/-- R90: `ENC` with its encoding: refused with no effect unless all `DV` are 1; else the four patterns, `PV` set,
the packed response, nothing else changed. -/
def Obligations.EncResult : Prop :=
  ∀ (c : Bool) (s : State), encode (.enc c) = 0x40000000 ||| (BitVec.ofBool c).setWidth 32 ∧
    (s.Ready → (∀ i : Pos, s.dv[i] = true) → exec (.enc c) s = .next { s with
      p := patternsOf seg s.d c
      pv := #v[true, true, true, true]
      responses := s.responses ++
        [⟨.ok, (patternsOf seg s.d c)[0] ++ (patternsOf seg s.d c)[1] ++ (patternsOf seg s.d c)[2] ++
          (patternsOf seg s.d c)[3]⟩] }) ∧
    (s.Ready → (∃ i : Pos, s.dv[i] = false) → exec (.enc c) s = .next (answered .invalidArg s))

/-- R100: `XMIT` with its encoding: refused with no effect unless all `PV` are 1; else the emit stage. -/
def Obligations.XmitResult : Prop :=
  encode .xmit = 0x50000000 ∧
  ∀ s : State, s.Ready →
    ((∀ i : Pos, s.pv[i] = true) → EmitStageEnds s (exec .xmit s)) ∧
    ((∃ i : Pos, s.pv[i] = false) → exec .xmit s = .next (answered .invalidArg s))

/-- R110: `DISPLAY` with its encoding: the registers of steps 1 to 3, then the emit stage over them, whether it
succeeds or fails. -/
def Obligations.DisplayResult : Prop :=
  ∀ (v : Value) (c : Bool) (s : State),
    encode (.display v c) = 0x10000000 ||| ((BitVec.ofBool c).setWidth 32 <<< 16) ||| v.setWidth 32 ∧
    (s.Ready → EmitStageEnds (prepared v c s) (exec (.display v c) s))

/-- R101, R52: the emit stage from any state: four answers `OK`, or the first `FAIL`, or no answer. The response
`(OK, 0)` is that of R100 and R110. That a stage without an answer is a state which holds the emission in flight is the
model's choice (log 6). -/
def Obligations.EmitStageByAnswers : Prop :=
  ∀ s : State, EmitStageEnds s (.next (emitAll s)) ∧ EmitStageWaits s (.next (emitAll s))

/-- R52, R71: where the answers stop, `XMIT` and `DISPLAY` are inside the command, with no response and no entry for
the unanswered emission. -/
def Obligations.UnansweredEmissionWaits : Prop :=
  ∀ s : State, s.Ready →
    ((∀ i : Pos, s.pv[i] = true) → EmitStageWaits s (exec .xmit s)) ∧
    ∀ v c, EmitStageWaits (prepared v c s) (exec (.display v c) s)

/-- 92_eei_decisions.md D22: a command that waited for its answers ends as one that got them at once. -/
def Obligations.WaitingDoesNotChangeTheResult : Prop :=
  ∀ (i : Instr) (s : State) (k : Pos) (a : Ack) (env : List Input), s.Ready →
    (i = .xmit ∧ (∀ j : Pos, s.pv[j] = true) ∨ ∃ v c, i = .display v c) →
    ∃ t, exec i { s with inputs := answersOk k.val } = .next t ∧ t.inFlight = some k ∧ t.responses = s.responses ∧
      step { t with inputs := .answer a :: env } = exec i { s with inputs := answersOk k.val ++ .answer a :: env }

/-- R41, R42: one emission: the entry with its position's address and the transport's answer, or nothing yet. -/
def Obligations.EmitRecordsTheAnswer : Prop :=
  (∀ (i : Pos) (b : Pattern) (s : State) (a : Ack) rest, s.inputs = .answer a :: rest →
    emit i b s = some (a, { s with inputs := rest, out := s.out ++ [⟨i, 0x34 + BitVec.ofNat 7 i.val, b, a⟩] })) ∧
  (∀ (i : Pos) (b : Pattern) (s : State), NoAnswerNext s.inputs → emit i b s = none) ∧
  digitAddr 0 = 0x34 ∧ digitAddr 1 = 0x35 ∧ digitAddr 2 = 0x36 ∧ digitAddr 3 = 0x37

/-- R102: the shape of what an emit stage that ends adds to `OUT`. -/
def Obligations.ShapeOfAnEmissionRun : Prop :=
  ∀ s : State, (emitAll s).inFlight = none →
    ∃ (m : Nat) (added : List OutEntry), 1 ≤ m ∧ m ≤ 4 ∧ (emitAll s).out = s.out ++ added ∧
      added.map (·.pos) = ([0, 1, 2, 3] : List Pos).take m ∧
      (∀ e ∈ added, e.addr = 0x34 + BitVec.ofNat 7 e.pos.val ∧ e.addr ≠ 0x24) ∧
      (∀ e ∈ added.dropLast, e.ack = .ok) ∧
      ((∃ e, added.getLast? = some e ∧ e.ack = .fail) ↔
        (emitAll s).responses = s.responses ++ [⟨.transportFault, 0⟩]) ∧
      ((emitAll s).responses ≠ s.responses ++ [⟨.transportFault, 0⟩] → m = 4)

/-- R135, R45: a command emits each position at most once and nothing after a `FAIL`. -/
def Obligations.NoRetryWithinACommand : Prop :=
  ∀ (i : Instr) (s t : State), exec i s = .next t →
    ∃ added : List OutEntry, t.out = s.out ++ added ∧ (added.map (·.pos)).Nodup ∧
      ∀ before e after, added = before ++ e :: after → e.ack = .fail → after = []

/-! ## Frames -/

/-- R80, R81, R144: `BCD4` and `SETD` leave every pattern, `PV`, `FAULT` and `OUT` alone; `SETD` leaves the other
digits and their flags alone. -/
def Obligations.DigitCommandsFrame : Prop :=
  ∀ (i : Instr) (s t : State), ((∃ v, i = .bcd4 v) ∨ ∃ k x, i = .setd k x) → exec i s = .next t →
    t.p = s.p ∧ t.pv = s.pv ∧ t.fault = s.fault ∧ t.inFlight = s.inFlight ∧ t.out = s.out ∧ t.inputs = s.inputs ∧
    t.resets = s.resets ∧
    ∀ k x, i = .setd k x → ∀ j : Pos, j ≠ k → t.d[j] = s.d[j] ∧ t.dv[j] = s.dv[j]

/-- R90: `ENC` leaves the digits, `DV`, `FAULT` and `OUT` alone. -/
def Obligations.EncFrame : Prop :=
  ∀ (c : Bool) (s t : State), exec (.enc c) s = .next t →
    t.d = s.d ∧ t.dv = s.dv ∧ t.fault = s.fault ∧ t.inFlight = s.inFlight ∧ t.out = s.out ∧ t.inputs = s.inputs ∧
    t.resets = s.resets

/-- R100, R101: `XMIT` leaves `D`, `DV`, `P`, `PV` alone, whatever the transport answers. -/
def Obligations.XmitFrame : Prop :=
  ∀ s t : State, exec .xmit s = .next t →
    t.d = s.d ∧ t.dv = s.dv ∧ t.p = s.p ∧ t.pv = s.pv ∧ t.resets = s.resets ∧
    ∃ added, t.out = s.out ++ added

/-- R110, R122: `DISPLAY` writes all of `D`, `DV`, `P`, `PV` whatever the transport answers, and undoes none of it. -/
def Obligations.DisplayFrame : Prop :=
  ∀ (v : Value) (c : Bool) (s t : State), s.Ready → exec (.display v c) s = .next t →
    t.d = digitsOf v ∧ t.dv = #v[true, true, true, true] ∧ t.p = patternsOf seg (digitsOf v) c ∧
    t.pv = #v[true, true, true, true] ∧ t.resets = s.resets ∧ ∃ added, t.out = s.out ++ added

/-! ## Exceptions -/

/-- R123: while `FAULT = 1` every word and every command is answered `HALTED` and changes nothing; only reset leaves
this state. -/
def Obligations.HaltedUntilReset : Prop :=
  (∀ s : State, s.fault = true → s.Idle →
    (∀ w rest, s.inputs = .command w :: rest → step s = .next (answered .halted { s with inputs := rest })) ∧
    ∀ i, exec i s = .next (answered .halted s)) ∧
  ∀ s t : State, s.fault = true → (∀ rest, s.inputs ≠ .reset :: rest) → step s = .next t → t.fault = true

/-- R122: a `FAIL` at whatever position the emit stage has reached: `FAULT` set, the failing emission recorded, no
later one issued, the response `TRANSPORT_FAULT` with no position in it. -/
def Obligations.TransportFaultAtAnyPosition : Prop :=
  ∀ (k : Pos) (s : State) rest, s.inputs = .answer .fail :: rest →
    emitFrom (positionsFrom k) s = answered .transportFault
      { s with inputs := rest, inFlight := none, fault := true, out := s.out ++ [entryAt s.p .fail k] }

/-- R121: the three causes of `InvalidArg`, none with an effect; no operand value raises it. -/
def Obligations.InvalidArgCauses : Prop :=
  ∀ s : State, s.Ready →
    (∀ w rest e, s.inputs = .command w :: rest → decode w = .error e →
      step s = .next (answered .invalidArg { s with inputs := rest })) ∧
    (∀ c, (∃ i : Pos, s.dv[i] = false) → exec (.enc c) s = .next (answered .invalidArg s)) ∧
    ((∃ i : Pos, s.pv[i] = false) → exec .xmit s = .next (answered .invalidArg s)) ∧
    (∀ i t r, exec i s = .next t → t.responses = s.responses ++ [r] → r.status = .invalidArg →
      (∃ c, i = .enc c ∧ ∃ j : Pos, s.dv[j] = false) ∨ (i = .xmit ∧ ∃ j : Pos, s.pv[j] = false))

/-- R25, R122: `FAULT` becomes 1 only by an emission answered `FAIL`, which is then the last of `OUT`. -/
def Obligations.FaultOnlyByFailedEmission : Prop :=
  ∀ s t : State, s.fault = false → step s = .next t → t.fault = true →
    ∃ before e, t.out = before ++ [e] ∧ e.ack = .fail ∧ s.out.length ≤ before.length

/-- R22, R24: a valid flag, once 1, is cleared only by reset. -/
def Obligations.ValidFlagsClearedOnlyByReset : Prop :=
  ∀ s t : State, (∀ rest, s.inputs ≠ .reset :: rest) → step s = .next t →
    ∀ i : Pos, (s.dv[i] = true → t.dv[i] = true) ∧ (s.pv[i] = true → t.pv[i] = true)

/-- R134, R35: no step, not even a reset, takes anything out of `OUT` or changes what stands in it. -/
def Obligations.OutOnlyGrows : Prop := ∀ s t : State, step s = .next t → ∃ added, t.out = s.out ++ added

/-- R11, R102: the mode address 0x24 is never written. -/
def Obligations.ModeAddressNeverWritten : Prop :=
  ∀ s t : State, (∀ e ∈ s.out, e.addr ≠ 0x24) → step s = .next t → ∀ e ∈ t.out, e.addr ≠ 0x24

/-! ## Reset -/

/-- R35, R140, R141: a reset action, in every state: flags cleared, a running command abandoned with no response,
nothing emitted, `D` and `P` left at some value. That the responses already returned stay in the record is the model's
inference (log 2), and the counter `resets` is the model's own field (log 4). -/
def Obligations.ResetAction : Prop :=
  ∀ (s : State) rest, s.inputs = .reset :: rest →
    ∃ (d : Vector Digit 4) (p : Vector Pattern 4) (n : Nat),
      step s = .next { s with
        d := d
        dv := #v[false, false, false, false]
        p := p
        pv := #v[false, false, false, false]
        fault := false
        inFlight := none
        inputs := rest
        resets := n }

/-- R35: the flags of the state a run starts in. (`D` and `P` hold the model's 0, log 3, of which this says
nothing.) -/
def Obligations.ResetStateFlags : Prop :=
  State.reset.fault = false ∧ (∀ i : Pos, State.reset.dv[i] = false ∧ State.reset.pv[i] = false) ∧
  State.reset.inFlight = none ∧ State.reset.out = []

/-- R35, 93_implementation_defined.md U1: what an invalid register holds is never observable: two states that differ
only in invalid registers (and in how often they were reset) step alike. The premise is the part of the invariant
that rules out an emission in flight over invalid patterns. -/
def Obligations.InvalidRegistersUnobservable : Prop :=
  ∀ s t : State, Indistinguishable s t → (∀ k, s.inFlight = some k → s.pv = allSet) →
    OutcomesAgree Indistinguishable (step s) (step t)

/-! ## Invariant -/

/-- R24, R25, R6, R34, R42, R46: the invariant holds in the state a run starts in. -/
def Obligations.ResetMeetsInvariant : Prop := State.reset.Inv

/-- R24, R25, R6, R34, R42, R46: every step keeps the invariant: the `PV` flags equal, patterns from the table with the
colon bit only at position 1, `OUT` in order with the right addresses, a fault recorded last. -/
def Obligations.StepKeepsInvariant : Prop := ∀ s t : State, s.Inv → step s = .next t → t.Inv

/-! ## The encoder and the decimal laws -/

/-- R27, R28, R31: the default table is admissible, and reading its digits back gives them, with or without the
colon bit. -/
def Obligations.DefaultTableAdmissible : Prop :=
  segStd.Admissible ∧
  ∀ n : Fin 10, dec7 segStd (segStd.read (BitVec.ofNat 4 n)) = some n.val ∧
    dec7 segStd (segStd.read (BitVec.ofNat 4 n) ||| 0x80) = some n.val

/-- R91: over every admissible table the colon bit is bit 7 and nothing else; and the whole function with `SEG_STD`. -/
def Obligations.SegmentEncoderFunction : Prop :=
  (∀ t : SegTable, t.Admissible → ∀ d : Digit,
    seg7 t d false = t.read d ∧ seg7 t d true = t.read d ||| 0x80 ∧
    (seg7 t d false).getLsbD 7 = false ∧ (seg7 t d true).getLsbD 7 = true ∧ seg7 t d true = seg7 t d false + 0x80) ∧
  (List.range 16).map (fun n => seg7 segStd (BitVec.ofNat 4 n) false) =
    [0x3F, 0x06, 0x5B, 0x4F, 0x66, 0x6D, 0x7D, 0x07, 0x7F, 0x6F, 0x77, 0x7C, 0x39, 0x5E, 0x79, 0x71] ∧
  (List.range 16).map (fun n => seg7 segStd (BitVec.ofNat 4 n) true) =
    [0xBF, 0x86, 0xDB, 0xCF, 0xE6, 0xED, 0xFD, 0x87, 0xFF, 0xEF, 0xF7, 0xFC, 0xB9, 0xDE, 0xF9, 0xF1]

/-- R92: lane `i` of `ENC` reads `D[i]` alone, and the colon operand only where `i = 1`. -/
def Obligations.EncoderLanesIndependent : Prop :=
  ∀ (c c' : Bool) (s t s' t' : State) (i : Pos), s.Ready → t.Ready → (∀ j : Pos, s.dv[j] = true) →
    (∀ j : Pos, t.dv[j] = true) → exec (.enc c) s = .next s' → exec (.enc c') t = .next t' →
    s.d[i] = t.d[i] → (i = 1 → c = c') → s'.p[i] = t'.p[i]

/-- R93: the properties of the encoder: reconstruction after `BCD4; ENC 0`, the colon, the round trip. -/
def Obligations.EncoderProperties : Prop :=
  (∀ (v : Value) (s : State), v.toNat ≤ 9999 → s.Ready →
    ∃ t u, exec (.bcd4 v) s = .next t ∧ exec (.enc false) t = .next u ∧ decimalShown seg u.p = some v.toNat) ∧
  (∀ s : State, s.Ready → (∀ j : Pos, s.dv[j] = true) →
    ∃ t u, exec (.enc false) s = .next t ∧ exec (.enc true) s = .next u ∧
      u.p[0] = t.p[0] ∧ u.p[2] = t.p[2] ∧ u.p[3] = t.p[3] ∧ u.p[1] = t.p[1] ||| 0x80 ∧
      (u.p[1]).getLsbD 7 = true ∧ (t.p[1]).getLsbD 7 = false) ∧
  (∀ n : Fin 10, dec7 seg (seg.read (BitVec.ofNat 4 n)) = some n.val)

/-- R82: the digits reconstruct the value modulo 10000, each 0 to 9, and the wraparound law for `BCD4`. -/
def Obligations.DigitsReconstructTheValue : Prop :=
  ∀ (v : Value) (s : State),
    decimalOf (decompose v s).d = v.toNat % 10000 ∧ (∀ i : Pos, ((decompose v s).d[i]).toNat ≤ 9) ∧
    exec (.bcd4 v) s = exec (.bcd4 (v % 10000)) s

/-- R83: the data of `BCD4` is the packed BCD form: its hexadecimal digits are the decimal digits of the value. -/
def Obligations.PackedDecimalResponse : Prop :=
  ∀ (v : Value) (s t : State), s.Ready → exec (.bcd4 v) s = .next t →
    ∃ r : Response, t.responses = s.responses ++ [r] ∧ r.status = .ok ∧
      r.data.toNat = 16 ^ 3 * (v.toNat / 1000 % 10) + 16 ^ 2 * (v.toNat / 100 % 10) + 16 * (v.toNat / 10 % 10) +
        v.toNat % 10

/-- R29, R31: over every admissible table, what `DISPLAY` prepares reads back as the value modulo 10000, with or
without the colon. -/
def Obligations.AnyAdmissibleTableReadsBack : Prop :=
  ∀ (t : SegTable) (v : Value) (c : Bool) (s : State), t.Admissible →
    decimalShown t (prepare t v c s).p = some (v.toNat % 10000)

/-! ## The laws of `DISPLAY` -/

/-- R111: `DISPLAY` and the sequence `BCD4; ENC; XMIT`, for the same answers: same registers, flags and entries; they
differ in the responses only. -/
def Obligations.DisplayEqualsItsStages : Prop :=
  ∀ (v : Value) (c : Bool) (s : State) (env : List Input), s.Ready →
    ∃ a b t u,
      step { s with inputs := hostSends [.bcd4 v, .enc c, .xmit] ++ env } = .next a ∧
      step a = .next b ∧ step b = .next t ∧
      step { s with inputs := hostSends [.display v c] ++ env } = .next u ∧
      t.d = u.d ∧ t.dv = u.dv ∧ t.p = u.p ∧ t.pv = u.pv ∧ t.fault = u.fault ∧ t.out = u.out ∧
      t.inFlight = u.inFlight ∧ t.inputs = u.inputs ∧
      a.responses = s.responses ++ [⟨.ok, packDigits t.d⟩] ∧
      b.responses = a.responses ++ [⟨.ok, packPatterns t.p⟩] ∧
      ∃ last : List Response, t.responses = b.responses ++ last ∧ u.responses = s.responses ++ last ∧
        ∀ r ∈ last, r.status = .ok ∨ r.status = .transportFault

/-- R112: reconstruction. -/
def Obligations.DisplayReconstructsTheValue : Prop :=
  ∀ (v : Value) (s : State) rest, v.toNat ≤ 9999 → s.Ready → s.inputs = answersOk 4 ++ rest →
    ∃ (t : State) (b : Vector Pattern 4), exec (.display v false) s = .next t ∧ t.out = s.out ++ sentOk b 4 ∧ decimalShown seg b = some v.toNat

/-- R113: the colon. -/
def Obligations.DisplayColonBit : Prop :=
  ∀ (v : Value) (s : State) rest, s.Ready → s.inputs = answersOk 4 ++ rest →
    ∃ (t u : State) (b bc : Vector Pattern 4), exec (.display v false) s = .next t ∧ exec (.display v true) s = .next u ∧
      t.out = s.out ++ sentOk b 4 ∧ u.out = s.out ++ sentOk bc 4 ∧
      bc[0] = b[0] ∧ bc[1] = b[1] ||| 0x80 ∧ bc[2] = b[2] ∧ bc[3] = b[3] ∧ ∀ i : Pos, (b[i]).getLsbD 7 = false

/-- R114: wraparound, for every value, either colon and every transport. -/
def Obligations.DisplayWrapsAround : Prop :=
  ∀ (v : Value) (c : Bool) (s : State), exec (.display v c) s = exec (.display (v % 10000) c) s

/-- R115: the end-to-end scenario under `SEG_STD`. -/
def Obligations.EndToEndScenario : Prop :=
  decode 0x100104D2 = .ok (.display 1234 true) ∧
  ∀ (s : State) rest, s.Ready → s.inputs = .command 0x100104D2 :: (answersOk 4 ++ rest) →
    ∃ t, step s = .next t ∧
      t.out = s.out ++ [⟨0, 0x34, 0x06, .ok⟩, ⟨1, 0x35, 0xDB, .ok⟩, ⟨2, 0x36, 0x4F, .ok⟩, ⟨3, 0x37, 0x66, .ok⟩] ∧
      t.responses = s.responses ++ [⟨.ok, 0⟩]

/-- R143: four `SETD`, one per position, in any order, make every digit valid, so that the next `ENC` runs. -/
def Obligations.FourSetdsInAnyOrder : Prop :=
  ∀ (l : List Pos) (x : Pos → Digit) (s : State), l.Perm [0, 1, 2, 3] → s.Ready →
    ∃ t, execAll (l.map (fun i => Instr.setd i (x i))) s = some t ∧ t.Ready ∧
      ∀ i : Pos, t.d[i] = x i ∧ t.dv[i] = true

/-- R144: stale patterns: a digit command changes neither `P` nor `PV`, and an `XMIT` after it sends the old
patterns. -/
def Obligations.StalePatternsAreSent : Prop :=
  ∀ (i : Instr) (s : State) rest, ((∃ v, i = .bcd4 v) ∨ ∃ k x, i = .setd k x) → s.Ready →
    ∃ t, exec i s = .next t ∧ t.p = s.p ∧ t.pv = s.pv ∧
      ((∀ j : Pos, s.pv[j] = true) → s.inputs = answersOk 4 ++ rest →
        ∃ u, exec .xmit t = .next u ∧ u.out = s.out ++ sentOk s.p 4 ∧ u.fault = false)

/-- R147: what stood in `D` and `P` before a `DISPLAY` is lost. -/
def Obligations.DisplayOverwritesStagedWork : Prop :=
  ∀ (v : Value) (c : Bool) (s t : State), s.Ready → t.Ready → s.inputs = t.inputs → s.out = t.out →
    ∃ s' t', exec (.display v c) s = .next s' ∧ exec (.display v c) t = .next t' ∧
      s'.d = t'.d ∧ s'.dv = t'.dv ∧ s'.p = t'.p ∧ s'.pv = t'.pv ∧ s'.fault = t'.fault ∧ s'.out = t'.out

/-- R146, R53: after a `FAIL` at position `k` the positions before `k` show the new patterns, position `k` the new one
or what it showed, the later ones what they showed; the response is the same whatever `k`. What a position showed before
is `mayShow` of `s.out`, which takes every emission without an entry as not written: the model's choice (log 15). -/
def Obligations.PartialUpdateAfterFault : Prop :=
  ∀ (v : Value) (c : Bool) (s : State) (k : Pos) rest, s.Ready →
    s.inputs = answersOk k.val ++ .answer .fail :: rest →
    ∃ t, exec (.display v c) s = .next t ∧ t.responses = s.responses ++ [⟨.transportFault, 0⟩] ∧
      ∀ i : Pos,
        (i < k → mayShow i t.out = [some (patternsOf seg (digitsOf v) c)[i]]) ∧
        (i = k → mayShow i t.out = some (patternsOf seg (digitsOf v) c)[i] :: mayShow i s.out) ∧
        (k < i → mayShow i t.out = mayShow i s.out)
end

