-- ==== Sys2Proof/Laws/Flags.lean ====
section
/-! SUPPORT. What the guard of the stage commands says, and when two vectors of four are equal. -/

namespace Sys2Proof.Machine

theorem vector4_ext {α : Type} {v w : Vector α 4} (h0 : v[0] = w[0]) (h1 : v[1] = w[1]) (h2 : v[2] = w[2])
    (h3 : v[3] = w[3]) : v = w := by
  ext i hi
  interval_cases i <;> assumption

theorem allValid_iff (v : Vector Bool 4) : allValid v = true ↔ v = allSet := by
  constructor
  · intro h
    simp only [allValid, Bool.and_eq_true] at h
    obtain ⟨⟨⟨h0, h1⟩, h2⟩, h3⟩ := h
    exact vector4_ext h0 h1 h2 h3
  · rintro rfl
    rfl

@[simp] theorem allValid_allSet : allValid allSet = true := rfl

@[simp] theorem allValid_allClear : allValid allClear = false := rfl

theorem allClear_ne_allSet : allClear ≠ allSet := by decide

@[simp] theorem allSet_get (n : Nat) (h : n < 4) : allSet[n] = true := by
  interval_cases n <;> rfl

@[simp] theorem allClear_get (n : Nat) (h : n < 4) : allClear[n] = false := by
  interval_cases n <;> rfl

/-- The guard fails exactly when some flag is 0 (R121b, R121c). -/
theorem allValid_eq_false_iff (v : Vector Bool 4) : allValid v = false ↔ ∃ i : Pos, v[i] = false := by
  constructor
  · intro h
    by_contra hn
    push Not at hn
    simp only [ne_eq, Bool.not_eq_false] at hn
    have : allValid v = true := by
      simp only [allValid, Bool.and_eq_true]
      exact ⟨⟨⟨hn 0, hn 1⟩, hn 2⟩, hn 3⟩
    simp [this] at h
  · rintro ⟨i, hi⟩
    by_contra hn
    rw [Bool.not_eq_false, allValid_iff] at hn
    subst hn
    simp at hi

end Sys2Proof.Machine
end

