-- ==== Sys2Proof/Laws/State.lean ====
section
/-! SUPPORT. One lemma per field per update of the state, so that no proof unfolds a record update; for a reset
action `d` and `p` have none, their values being free (log 4). -/

namespace Sys2Proof.Machine

@[simp] theorem writeDigit_d (i : Pos) (x : Digit) (s : State) : (writeDigit i x s).d = s.d.set i x := rfl
@[simp] theorem writeDigit_dv (i : Pos) (x : Digit) (s : State) : (writeDigit i x s).dv = s.dv.set i true := rfl
@[simp] theorem writeDigit_p (i : Pos) (x : Digit) (s : State) : (writeDigit i x s).p = s.p := rfl
@[simp] theorem writeDigit_pv (i : Pos) (x : Digit) (s : State) : (writeDigit i x s).pv = s.pv := rfl
@[simp] theorem writeDigit_fault (i : Pos) (x : Digit) (s : State) : (writeDigit i x s).fault = s.fault := rfl
@[simp] theorem writeDigit_inFlight (i : Pos) (x : Digit) (s : State) : (writeDigit i x s).inFlight = s.inFlight := rfl
@[simp] theorem writeDigit_out (i : Pos) (x : Digit) (s : State) : (writeDigit i x s).out = s.out := rfl
@[simp] theorem writeDigit_responses (i : Pos) (x : Digit) (s : State) : (writeDigit i x s).responses = s.responses := rfl
@[simp] theorem writeDigit_inputs (i : Pos) (x : Digit) (s : State) : (writeDigit i x s).inputs = s.inputs := rfl
@[simp] theorem writeDigit_resets (i : Pos) (x : Digit) (s : State) : (writeDigit i x s).resets = s.resets := rfl

@[simp] theorem writePattern_d (i : Pos) (b : Pattern) (s : State) : (writePattern i b s).d = s.d := rfl
@[simp] theorem writePattern_dv (i : Pos) (b : Pattern) (s : State) : (writePattern i b s).dv = s.dv := rfl
@[simp] theorem writePattern_p (i : Pos) (b : Pattern) (s : State) : (writePattern i b s).p = s.p.set i b := rfl
@[simp] theorem writePattern_pv (i : Pos) (b : Pattern) (s : State) : (writePattern i b s).pv = s.pv.set i true := rfl
@[simp] theorem writePattern_fault (i : Pos) (b : Pattern) (s : State) : (writePattern i b s).fault = s.fault := rfl
@[simp] theorem writePattern_inFlight (i : Pos) (b : Pattern) (s : State) : (writePattern i b s).inFlight = s.inFlight := rfl
@[simp] theorem writePattern_out (i : Pos) (b : Pattern) (s : State) : (writePattern i b s).out = s.out := rfl
@[simp] theorem writePattern_responses (i : Pos) (b : Pattern) (s : State) : (writePattern i b s).responses = s.responses := rfl
@[simp] theorem writePattern_inputs (i : Pos) (b : Pattern) (s : State) : (writePattern i b s).inputs = s.inputs := rfl
@[simp] theorem writePattern_resets (i : Pos) (b : Pattern) (s : State) : (writePattern i b s).resets = s.resets := rfl

@[simp] theorem setFault_d (s : State) : (setFault s).d = s.d := rfl
@[simp] theorem setFault_dv (s : State) : (setFault s).dv = s.dv := rfl
@[simp] theorem setFault_p (s : State) : (setFault s).p = s.p := rfl
@[simp] theorem setFault_pv (s : State) : (setFault s).pv = s.pv := rfl
@[simp] theorem setFault_fault (s : State) : (setFault s).fault = true := rfl
@[simp] theorem setFault_inFlight (s : State) : (setFault s).inFlight = s.inFlight := rfl
@[simp] theorem setFault_out (s : State) : (setFault s).out = s.out := rfl
@[simp] theorem setFault_responses (s : State) : (setFault s).responses = s.responses := rfl
@[simp] theorem setFault_inputs (s : State) : (setFault s).inputs = s.inputs := rfl
@[simp] theorem setFault_resets (s : State) : (setFault s).resets = s.resets := rfl

@[simp] theorem respond_d (st : Status) (x : RespData) (s : State) : (respond st x s).d = s.d := rfl
@[simp] theorem respond_dv (st : Status) (x : RespData) (s : State) : (respond st x s).dv = s.dv := rfl
@[simp] theorem respond_p (st : Status) (x : RespData) (s : State) : (respond st x s).p = s.p := rfl
@[simp] theorem respond_pv (st : Status) (x : RespData) (s : State) : (respond st x s).pv = s.pv := rfl
@[simp] theorem respond_fault (st : Status) (x : RespData) (s : State) : (respond st x s).fault = s.fault := rfl
@[simp] theorem respond_inFlight (st : Status) (x : RespData) (s : State) : (respond st x s).inFlight = none := rfl
@[simp] theorem respond_out (st : Status) (x : RespData) (s : State) : (respond st x s).out = s.out := rfl
@[simp] theorem respond_responses (st : Status) (x : RespData) (s : State) : (respond st x s).responses = s.responses ++ [⟨st, x⟩] := rfl
@[simp] theorem respond_inputs (st : Status) (x : RespData) (s : State) : (respond st x s).inputs = s.inputs := rfl
@[simp] theorem respond_resets (st : Status) (x : RespData) (s : State) : (respond st x s).resets = s.resets := rfl

@[simp] theorem resetBlock_dv (s : State) : (resetBlock s).dv = allClear := rfl
@[simp] theorem resetBlock_pv (s : State) : (resetBlock s).pv = allClear := rfl
@[simp] theorem resetBlock_fault (s : State) : (resetBlock s).fault = false := rfl
@[simp] theorem resetBlock_inFlight (s : State) : (resetBlock s).inFlight = none := rfl
@[simp] theorem resetBlock_out (s : State) : (resetBlock s).out = s.out := rfl
@[simp] theorem resetBlock_responses (s : State) : (resetBlock s).responses = s.responses := rfl
@[simp] theorem resetBlock_inputs (s : State) : (resetBlock s).inputs = s.inputs := rfl
@[simp] theorem resetBlock_resets (s : State) : (resetBlock s).resets = s.resets + 1 := rfl

@[simp] theorem presentNext_d (w : CmdWord) (s : State) : (presentNext w s).d = s.d := rfl
@[simp] theorem presentNext_dv (w : CmdWord) (s : State) : (presentNext w s).dv = s.dv := rfl
@[simp] theorem presentNext_p (w : CmdWord) (s : State) : (presentNext w s).p = s.p := rfl
@[simp] theorem presentNext_pv (w : CmdWord) (s : State) : (presentNext w s).pv = s.pv := rfl
@[simp] theorem presentNext_fault (w : CmdWord) (s : State) : (presentNext w s).fault = s.fault := rfl
@[simp] theorem presentNext_inFlight (w : CmdWord) (s : State) : (presentNext w s).inFlight = none := rfl
@[simp] theorem presentNext_out (w : CmdWord) (s : State) : (presentNext w s).out = s.out := rfl
@[simp] theorem presentNext_responses (w : CmdWord) (s : State) : (presentNext w s).responses = s.responses := rfl
@[simp] theorem presentNext_inputs (w : CmdWord) (s : State) : (presentNext w s).inputs = .command w :: s.inputs := rfl
@[simp] theorem presentNext_resets (w : CmdWord) (s : State) : (presentNext w s).resets = s.resets := rfl

end Sys2Proof.Machine
end

