-- ==== Sys2Proof/Laws/Ops.lean ====
section
/-! SUPPORT. What each shared operation can do, said once. -/

namespace Sys2Proof.Machine

theorem accept_ready (body : State → State) {s : State} (h : s.Ready) : accept body s = .next (body s) := by
  simp [accept, h.1, h.2]

theorem accept_halted (body : State → State) {s : State} (hi : s.inFlight = none) (hf : s.fault = true) :
    accept body s = .next (raise .halted s) := by
  simp [accept, hi, hf]

theorem accept_running (body : State → State) {s : State} {k : Pos} (h : s.inFlight = some k) :
    accept body s = .refused .commandWhileRunning := by
  simp [accept, h]

/-- Everything a presented word can come to. -/
theorem accept_cases (body : State → State) (s : State) :
    (s.Ready ∧ accept body s = .next (body s)) ∨
    (s.inFlight = none ∧ s.fault = true ∧ accept body s = .next (raise .halted s)) ∨
    (∃ k, s.inFlight = some k ∧ accept body s = .refused .commandWhileRunning) := by
  rcases hk : s.inFlight with _ | k
  · cases hf : s.fault
    · exact .inl ⟨⟨hk, hf⟩, accept_ready body ⟨hk, hf⟩⟩
    · exact .inr (.inl ⟨rfl, rfl, accept_halted body hk hf⟩)
  · exact .inr (.inr ⟨k, rfl, accept_running body hk⟩)

theorem accept_next {body : State → State} {s t : State} (h : accept body s = .next t) :
    (s.Ready ∧ t = body s) ∨ (s.inFlight = none ∧ s.fault = true ∧ t = raise .halted s) := by
  obtain ⟨hr, e⟩ | ⟨hi, hf, e⟩ | ⟨k, -, e⟩ := accept_cases body s <;> rw [e] at h <;> cases h
  · exact .inl ⟨hr, rfl⟩
  · exact .inr ⟨hi, hf, rfl⟩

/-- A state with no answer to an emission as its next input. -/
theorem emit_unanswered {s : State} (h : ∀ a rest, s.inputs ≠ .answer a :: rest) (i : Pos) (b : Pattern) :
    emit i b s = none := by
  unfold emit
  split
  · exact absurd ‹_› (h _ _)
  · rfl

theorem emit_answered {s : State} {a : Ack} {rest : List Input} (h : s.inputs = .answer a :: rest) (i : Pos)
    (b : Pattern) :
    emit i b s = some (a, { s with inputs := rest, out := s.out ++ [outEntry i b a] }) := by
  simp [emit, h]

/-- The three ways an emission at the head of the emit stage goes on (R101). -/
theorem emitFrom_cons (i : Pos) (rest : List Pos) (s : State) :
    (∃ r, s.inputs = .answer .ok :: r ∧
      emitFrom (i :: rest) s = emitFrom rest { s with inputs := r, out := s.out ++ [outEntry i s.p[i] .ok] }) ∨
    (∃ r, s.inputs = .answer .fail :: r ∧
      emitFrom (i :: rest) s =
        raise .transportFault { s with inputs := r, out := s.out ++ [outEntry i s.p[i] .fail] }) ∨
    ((∀ a r, s.inputs ≠ .answer a :: r) ∧ emitFrom (i :: rest) s = { s with inFlight := some i }) := by
  by_cases h : ∃ a r, s.inputs = .answer a :: r
  · obtain ⟨a, r, h⟩ := h
    cases a
    · exact .inl ⟨r, h, by simp [emitFrom, emit_answered h]⟩
    · exact .inr (.inl ⟨r, h, by simp [emitFrom, emit_answered h]⟩)
  · push Not at h
    exact .inr (.inr ⟨h, by simp [emitFrom, emit_unanswered h]⟩)

/-- The emit stage reads `P` and writes only `FAULT` among the block's registers (R101). -/
theorem emitFrom_frame (l : List Pos) (s : State) :
    (emitFrom l s).d = s.d ∧ (emitFrom l s).dv = s.dv ∧ (emitFrom l s).p = s.p ∧ (emitFrom l s).pv = s.pv ∧
    (emitFrom l s).resets = s.resets := by
  induction l generalizing s with
  | nil => simp [emitFrom]
  | cons i rest ih =>
    obtain ⟨r, -, e⟩ | ⟨r, -, e⟩ | ⟨-, e⟩ := emitFrom_cons i rest s <;> rw [e]
    · simpa using ih { s with inputs := r, out := s.out ++ [outEntry i s.p[i] .ok] }
    · simp [raise]
    · simp

/-- The emit stage only ever adds to `OUT` (R134). -/
theorem emitFrom_out (l : List Pos) (s : State) : ∃ added, (emitFrom l s).out = s.out ++ added := by
  induction l generalizing s with
  | nil => exact ⟨[], by simp [emitFrom]⟩
  | cons i rest ih =>
    obtain ⟨r, -, e⟩ | ⟨r, -, e⟩ | ⟨-, e⟩ := emitFrom_cons i rest s <;> rw [e]
    · obtain ⟨added, h⟩ := ih { s with inputs := r, out := s.out ++ [outEntry i s.p[i] .ok] }
      exact ⟨outEntry i s.p[i] .ok :: added, by simpa using h⟩
    · exact ⟨[outEntry i s.p[i] .fail], by simp [raise]⟩
    · exact ⟨[], by simp⟩

end Sys2Proof.Machine
end

