-- ==== Sys2Proof/Laws/Commands.lean ====
section
/-! SUPPORT. The loops of the commands in closed form, and what one step can do. -/

namespace Sys2Proof.Machine

/-- The four digits of a value, the thousands first (R80, closed form). -/
theorem decompose_eq (v : Value) (s : State) :
    decompose v s =
      { s with
        d := #v[(v / 10 / 10 / 10 % 10).setWidth 4, (v / 10 / 10 % 10).setWidth 4, (v / 10 % 10).setWidth 4,
                (v % 10).setWidth 4]
        dv := allSet } := by
  simp only [decompose, decomposeLoop, writeDigit, radix]
  congr 1 <;> exact vector4_ext (by simp) (by simp) (by simp) (by simp)

/-- The four lanes of the encoder (R90, spelt out). -/
theorem encodeLanes_eq (t : SegTable) (c : Bool) (s : State) :
    encodeLanes t c positions s =
      { s with
        p := #v[seg7 t s.d[0] false, seg7 t s.d[1] c, seg7 t s.d[2] false, seg7 t s.d[3] false]
        pv := allSet } := by
  simp only [encodeLanes, positions, writePattern]
  congr 1 <;> exact vector4_ext (by simp [colonPos]) (by simp [colonPos]) (by simp [colonPos]) (by simp [colonPos])

/-- Steps 2 and 3 of `DISPLAY` leave what the encoder's lanes leave (R110, R91). -/
theorem overlay_lookUp_eq (t : SegTable) (c : Bool) (s : State) :
    overlayColon c (lookUp t positions s) = encodeLanes t c positions s := by
  rw [encodeLanes_eq]
  cases c <;> simp only [overlayColon, lookUp, positions, writePattern, if_true, Bool.false_eq_true, if_false] <;>
    congr 1 <;> exact vector4_ext (by simp [seg7, colonPos]) (by simp [seg7, colonPos]) (by simp [seg7, colonPos])
      (by simp [seg7, colonPos])

/-- Steps 1 to 3 of `DISPLAY` are `BCD4` and `ENC` without their responses (R111). -/
theorem prepare_eq (t : SegTable) (v : Value) (c : Bool) (s : State) :
    prepare t v c s = encodeLanes t c positions (decompose v s) := overlay_lookUp_eq t c _

/-- Everything a step can do, by its next input. -/
theorem step_cases (s : State) :
    (s.inputs = [] ∧ step s = .next s) ∨
    (∃ rest, s.inputs = .reset :: rest ∧ step s = .next (resetBlock { s with inputs := rest })) ∨
    (∃ a rest, s.inputs = .answer a :: rest ∧ step s = .next (answerArrives s)) ∨
    (∃ w rest, s.inputs = .command w :: rest ∧ step s = present w { s with inputs := rest }) := by
  rcases h : s.inputs with _ | ⟨_ | _ | _, rest⟩ <;> simp [step, h]

/-- A presented word is answered through the checks of `accept` with some command body. -/
theorem present_eq (w : CmdWord) : ∃ body, ∀ s, present w s = accept body s := by
  unfold present
  rcases decode w with _ | i
  · exact ⟨_, fun _ => rfl⟩
  · cases i <;> exact ⟨_, fun _ => rfl⟩

/-- What each command does once the checks have passed. -/
def commandBody : Instr → State → State
  | .display v c => displayBody seg v c
  | .bcd4 v => bcd4Body v
  | .setd i x => setdBody i x
  | .enc c => encBody seg c
  | .xmit => xmitBody

theorem exec_eq_accept (i : Instr) (s : State) : exec i s = accept (commandBody i) s := by cases i <;> rfl

/-- Everything a command that gives a next state can have done. -/
theorem exec_next {i : Instr} {s t : State} (h : exec i s = .next t) :
    (s.Ready ∧ t = commandBody i s) ∨ (s.inFlight = none ∧ s.fault = true ∧ t = raise .halted s) :=
  accept_next (exec_eq_accept i s ▸ h)

/-- The emit stage overwrites the in-flight mark, so it does not matter what it was. -/
theorem emitFrom_inFlight (l : List Pos) (s : State) (x : Option Pos) :
    emitFrom l { s with inFlight := x } = emitFrom l s := by
  induction l generalizing s with
  | nil => rfl
  | cons i l ih =>
    simp only [emitFrom, emit]
    rcases s.inputs with _ | ⟨_ | _ | a, r⟩
    · rfl
    · rfl
    · rfl
    · cases a
      · exact ih { s with inputs := r, out := s.out ++ [outEntry i s.p[i] .ok] }
      · rfl

end Sys2Proof.Machine
end

