-- ==== Sys2Proof/Laws/Decode.lean ====
section
/-! SUPPORT. The decoder as a chain of the five pattern tests of R61. -/

namespace Sys2Proof

theorem decode_eq (w : CmdWord) : decode w =
    if w &&& 0xFFFE0000#32 = 0x10000000#32 then .ok (.display (valueField w) (w.getLsbD 16))
    else if w &&& 0xFFFF0000#32 = 0x20000000#32 then .ok (.bcd4 (valueField w))
    else if w &&& 0xFFFFFFC0#32 = 0x30000000#32 then .ok (.setd (posField w) (digitField w))
    else if w &&& 0xFFFFFFFE#32 = 0x40000000#32 then .ok (.enc (w.getLsbD 0))
    else if w &&& 0xFFFFFFFF#32 = 0x50000000#32 then .ok .xmit
    else .error (if legalOpcode (opField w) then .reservedBits else .reservedOpcode) := by
  simp only [decode, encodingRows, rowMatches, List.find?]
  by_cases h1 : w &&& 0xFFFE0000#32 = 0x10000000#32
  · simp only [h1, beq_self_eq_true, if_true]
  rw [if_neg h1, beq_eq_false_iff_ne.mpr h1]
  by_cases h2 : w &&& 0xFFFF0000#32 = 0x20000000#32
  · simp only [h2, beq_self_eq_true, if_true]
  rw [if_neg h2, beq_eq_false_iff_ne.mpr h2]
  by_cases h3 : w &&& 0xFFFFFFC0#32 = 0x30000000#32
  · simp only [h3, beq_self_eq_true, if_true]
  rw [if_neg h3, beq_eq_false_iff_ne.mpr h3]
  by_cases h4 : w &&& 0xFFFFFFFE#32 = 0x40000000#32
  · simp only [h4, beq_self_eq_true, if_true]
  rw [if_neg h4, beq_eq_false_iff_ne.mpr h4]
  by_cases h5 : w &&& 0xFFFFFFFF#32 = 0x50000000#32
  · simp only [h5, beq_self_eq_true, if_true]
  rw [if_neg h5, beq_eq_false_iff_ne.mpr h5]

end Sys2Proof
end

