-- ==== Sys2Proof/Laws/PerInstr.lean ====
section
/-! SUPPORT. Per command: its word carries its opcode of the map (30_encoding.md R63), and the command is well
formed (R65: all operand values are legal). -/

namespace Sys2Proof.Laws.OpcodeMap

/-- The opcode map of R63. -/
def opcodeOf : Instr → BitVec 4
  | .display _ _ => 0x1
  | .bcd4 _ => 0x2
  | .setd _ _ => 0x3
  | .enc _ => 0x4
  | .xmit => 0x5

def Statement (i : Instr) : Prop := opField (encode i) = opcodeOf i ∧ wellFormed i = true

/-- The opcode of a word lies in its upper part, whatever the operand below it. -/
theorem opField_append {m n : Nat} (x : BitVec m) (y : BitVec n) (hn : n ≤ 28) (j : Nat) :
    (x ++ y).getLsbD (28 + j) = x.getLsbD (28 + j - n) := by
  rw [BitVec.getLsbD_append, if_neg (by omega)]

theorem display (value : Value) (colon : Bool) : Statement (.display value colon) := by
  refine ⟨BitVec.eq_of_getLsbD_eq fun j hj => ?_,
    by simp [wellFormed, Instr.toSource, Source.wellFormed, value.isLt, Bool.toNat_le]⟩
  rw [opField, BitVec.getLsbD_extractLsb', decide_eq_true hj, Bool.true_and]
  refine (opField_append _ value (by decide) j).trans ?_
  cases colon <;> interval_cases j <;> rfl

theorem bcd4 (value : Value) : Statement (.bcd4 value) := by
  refine ⟨BitVec.eq_of_getLsbD_eq fun j hj => ?_,
    by simp [wellFormed, Instr.toSource, Source.wellFormed, value.isLt]⟩
  rw [opField, BitVec.getLsbD_extractLsb', decide_eq_true hj, Bool.true_and]
  refine (opField_append _ value (by decide) j).trans ?_
  interval_cases j <;> rfl

theorem setd (i : Pos) (d : Digit) : Statement (.setd i d) := by
  refine ⟨BitVec.eq_of_getLsbD_eq fun j hj => ?_,
    by simp [wellFormed, Instr.toSource, Source.wellFormed, d.isLt]⟩
  rw [opField, BitVec.getLsbD_extractLsb', decide_eq_true hj, Bool.true_and]
  refine (opField_append _ d (by decide) j).trans ?_
  fin_cases i <;> interval_cases j <;> rfl

theorem enc (colon : Bool) : Statement (.enc colon) := by cases colon <;> exact ⟨rfl, rfl⟩

theorem xmit : Statement .xmit := ⟨rfl, rfl⟩

end Sys2Proof.Laws.OpcodeMap
end

