-- ==== Sys2Proof/Tests/Slice0.lean ====
section
/-! SUPPORT. Our own tests, expected values from spec/95_test_vectors.md (the id is in each comment) or worked out by
hand from the rules, and a witness for the hypotheses of each obligation. -/

namespace Sys2Proof.Tests

open Sys2Proof.Machine

/-! ## Words written out bit by bit from 30_encoding.md R61 -/

/-- R110: `DISPLAY 1800, 1`. -/
theorem test_decode_display :
    decode 0b0001_0000_0000_0001_0000_0111_0000_1000#32 = .ok (.display 1800 true) := rfl

/-- R80: `BCD4 1234`. -/
theorem test_decode_bcd4 : decode 0b0010_0000_0000_0000_0000_0100_1101_0010#32 = .ok (.bcd4 1234) := rfl

/-- R81: `SETD 2, 0xC`. -/
theorem test_decode_setd : decode 0b0011_0000_0000_0000_0000_0000_0010_1100#32 = .ok (.setd 2 12) := rfl

/-- R90: `ENC 1`. -/
theorem test_decode_enc : decode 0b0100_0000_0000_0000_0000_0000_0000_0001#32 = .ok (.enc true) := rfl

/-- R100: `XMIT`. -/
theorem test_decode_xmit : decode 0b0101_0000_0000_0000_0000_0000_0000_0000#32 = .ok .xmit := rfl

/-- V2.R1 to V2.R8, V2.R11. -/
theorem test_decode_reserved :
    [0x00000000#32, 0x60000000#32, 0xFFFFFFFF#32].map decode = List.replicate 3 (.error .reservedOpcode) ∧
    [0x10020000#32, 0x20010000#32, 0x30000040#32, 0x40000002#32, 0x50000001#32, 0x18000000#32].map decode =
      List.replicate 6 (.error .reservedBits) := ⟨rfl, rfl⟩

/-- The words of V2.D20, V2.B16, V2.S2, V2.E3. -/
theorem test_encode_words :
    encode (.display 65535 true) = 0x1001FFFF ∧ encode (.bcd4 65535) = 0x2000FFFF ∧
    encode (.setd 3 15) = 0x3000003F ∧ encode (.enc false) = 0x40000000 := by decide

/-! ## The well-formedness checks: one ill-formed term each -/

theorem test_illformed_display_value : (Source.display 65536 0).wellFormed = false := by decide
theorem test_illformed_display_colon : (Source.display 0 2).wellFormed = false := by decide
theorem test_illformed_bcd4_value : (Source.bcd4 65536).wellFormed = false := by decide
theorem test_illformed_setd_position : (Source.setd 4 0).wellFormed = false := by decide
theorem test_illformed_setd_digit : (Source.setd 0 16).wellFormed = false := by decide
theorem test_illformed_enc_colon : (Source.enc 2).wellFormed = false := by decide
theorem test_wellformed_at_the_bounds :
    (Source.display 65535 1).wellFormed = true ∧ (Source.setd 3 15).wellFormed = true := by decide

/-- R68: its own examples. -/
theorem test_assemble_display :
    assembleLine ['D', 'I', 'S', 'P', 'L', 'A', 'Y', ' ', '1', '2', '3', '4', ',', ' ', '1', ';', 'x'] =
      .ok (some (.display 1234 true)) := by rfl

theorem test_assemble_setd :
    assembleLine ['S', 'E', 'T', 'D', ' ', '2', ',', ' ', '0', 'x', 'C'] = .ok (some (.setd 2 12)) := by rfl

/-- R68: an operand outside its field's range is an error. -/
theorem test_assemble_out_of_range :
    assembleLine ['E', 'N', 'C', ' ', '2'] = .error .operandOutOfRange := by rfl

/-! ## One step -/

/-- The reset state with these inputs. -/
def fresh (l : List Input) : State := { State.reset with inputs := l }

/-- Digits 1, 8, 0, 0 staged, and their patterns with the colon (after `BCD4 1800; ENC 1`), with these inputs. -/
def staged (l : List Input) : State :=
  { State.reset with
    d := #v[1, 8, 0, 0], dv := allSet, p := #v[0x06, 0xFF, 0x3F, 0x3F], pv := allSet, inputs := l }

/-- What a step leaves, where it gives a next state. -/
def after (o : Host.Outcome State Fault Refusal) : Option State :=
  match o with
  | .next t => some t
  | _ => none

/-- V2.B16. -/
theorem test_bcd4_largest :
    (after (step (fresh [.command 0x2000FFFF]))).map (fun t => (t.d, t.dv, t.pv, t.responses)) =
      some (#v[5, 5, 3, 5], allSet, allClear, [⟨.ok, 0x00005535⟩]) := by decide

/-- V2.B11. -/
theorem test_bcd4_wraps :
    (after (step (fresh [.command 0x20003039]))).map (fun t => (t.d, t.responses)) =
      some (#v[2, 3, 4, 5], [⟨.ok, 0x00002345⟩]) := by decide

/-- V2.S2. -/
theorem test_setd_one_digit :
    (after (step (fresh [.command 0x3000003F]))).map (fun t => (t.d[3], t.dv, t.responses)) =
      some (15, #v[false, false, false, true], [⟨.ok, 0⟩]) := by decide

/-- V2.S5: the patterns go stale. -/
theorem test_setd_leaves_patterns :
    (after (step (staged [.command 0x30000008]))).map (fun t => (t.d, t.p, t.pv)) =
      some (#v[8, 8, 0, 0], #v[0x06, 0xFF, 0x3F, 0x3F], allSet) := by decide

/-- V2.E9: entries 14 and 15, the colon on the second. -/
theorem test_enc_hexadecimal :
    (after (step { staged [.command 0x40000001] with d := #v[14, 15, 0, 0] })).map (fun t => (t.p, t.responses)) =
      some (#v[0x79, 0xF1, 0x3F, 0x3F], [⟨.ok, 0x79F13F3F⟩]) := by decide

/-- V2.E2: `DV[3] = 0`. -/
theorem test_enc_refused :
    (after (step { staged [.command 0x40000000] with dv := #v[true, true, true, false], pv := allClear })).map
      (fun t => (t.p, t.pv, t.responses)) =
      some (#v[0x06, 0xFF, 0x3F, 0x3F], allClear, [⟨.invalidArg, 0⟩]) := by decide

/-- V2.X5. -/
theorem test_xmit_fails_at_third :
    (after (step (staged [.command 0x50000000, .answer .ok, .answer .ok, .answer .fail, .answer .ok]))).map
      (fun t => (t.out, t.fault, t.responses, t.inFlight)) =
      some ([⟨0, 0x34, 0x06, .ok⟩, ⟨1, 0x35, 0xFF, .ok⟩, ⟨2, 0x36, 0x3F, .fail⟩], true, [⟨.transportFault, 0⟩],
        none) := by decide

/-- V2.X8: never answered: inside the command, no response. -/
theorem test_xmit_hangs :
    (after (step (staged [.command 0x50000000, .answer .ok]))).map
      (fun t => (t.out, t.fault, t.responses, t.inFlight)) =
      some ([⟨0, 0x34, 0x06, .ok⟩], false, [], some 1) := by decide

/-- V2.D15: 12345 wraps to 2345, with the colon. -/
theorem test_display_wraps :
    (after (step (fresh [.command 0x10013039, .answer .ok, .answer .ok, .answer .ok, .answer .ok]))).map
      (fun t => (t.d, t.out, t.responses)) =
      some (#v[2, 3, 4, 5],
        [⟨0, 0x34, 0x5B, .ok⟩, ⟨1, 0x35, 0xCF, .ok⟩, ⟨2, 0x36, 0x66, .ok⟩, ⟨3, 0x37, 0x6D, .ok⟩],
        [⟨.ok, 0⟩]) := by decide

/-- V2.D22: the first emission fails; the registers keep the values of steps 1 to 3. -/
theorem test_display_fails_at_first :
    (after (step (fresh [.command 0x10010708, .answer .fail]))).map
      (fun t => (t.d, t.p, t.out, t.responses)) =
      some (#v[1, 8, 0, 0], #v[0x06, 0xFF, 0x3F, 0x3F], [⟨0, 0x34, 0x06, .fail⟩],
        [⟨.transportFault, 0⟩]) := by decide

/-- V2.H3: halted comes before decoding. -/
theorem test_halted_before_decoding :
    (after (step { staged [.command 0] with fault := true })).map (fun t => t.responses) =
      some [⟨.halted, 0⟩] := by decide

/-- V2.H4: reset clears the flags and abandons a command that waits. -/
theorem test_reset_action :
    (after (step { staged [.reset, .command 0] with fault := true, inFlight := some 2 })).map
      (fun t => (t.fault, t.pv, t.inFlight, t.responses)) =
      some (false, allClear, none, []) := by decide

/-- R146, U5: the failing position shows the old or the new pattern, the next one the old. -/
theorem test_may_show :
    mayShow 1 [⟨1, 0x35, 0x06, .ok⟩, ⟨0, 0x34, 0x7F, .ok⟩, ⟨1, 0x35, 0x3F, .fail⟩] = [some 0x3F, some 0x06] := by
  decide

/-- The host's table and fetch functions. -/
theorem test_decodeTableWord :
    decodeTableWord 32 0x3000002C = some (.setd 2 12) ∧ decodeTableWord 32 0x30000040 = none := by decide

theorem test_withFetchWord :
    (after (step (State.reset.withFetchWord 32 0x3000002C))).map (fun t => (t.d[2], t.dv)) =
      some (12, #v[false, false, true, false]) := by decide

/-! ## Witnesses: states and operands that meet the hypotheses of the obligations, clause by clause -/

theorem witness_decodeOfEncode : wellFormed (.display 65535 true) = true := by decide

theorem witness_encodeOfDecode : decode 0x3000003F = .ok (.setd 3 15) := rfl

theorem witness_reservedEncodings :
    (fresh [.command 0x60000000]).Ready ∧ (fresh [.command 0x60000000]).inputs = .command 0x60000000 :: [] ∧
    decode 0x60000000 = .error .reservedOpcode := ⟨by decide, rfl, rfl⟩

theorem witness_patternsDisjoint : ∃ a ∈ encodingRows, rowMatches 0x50000000 a = true :=
  ⟨encodingRows[4]'(by decide), List.getElem_mem _, rfl⟩

theorem witness_outOfRange :
    (Source.setd 3 15).wellFormed = true ∧ (Source.setd 4 15).wellFormed = false := by decide

theorem witness_stepRunsDecodedCommand :
    (staged [.command 0x50000000]).inputs = .command 0x50000000 :: [] ∧ decode 0x50000000 = .ok .xmit :=
  ⟨rfl, rfl⟩

/-- The five clauses, in their order; each also has its command decoded. -/
theorem witness_orderOfChecks :
    ({ staged [.command 0] with fault := true } : State).Idle ∧ (fresh [.command 0]).Ready ∧
    decode 0 = .error .reservedOpcode ∧
    decode 0x40000001 = .ok (.enc true) ∧ (∃ i : Pos, (fresh [.command 0x40000001]).dv[i] = false) ∧
    decode 0x50000000 = .ok .xmit ∧ (∃ i : Pos, (fresh [.command 0x50000000]).pv[i] = false) ∧
    (staged [.command 0x50000000]).Ready ∧ ∀ j : Pos, (staged [.command 0x50000000]).pv[j] = true :=
  ⟨by decide, by decide, rfl, rfl, by decide, rfl, by decide, by decide, by decide⟩

theorem witness_oneResponsePerWord :
    ∃ t, step (staged [.command 0x50000000]) = .next t ∧ t.inFlight = some 0 := ⟨_, rfl, rfl⟩

theorem witness_oneResponsePerWord_answered :
    ∃ t, step (fresh [.command 0x50000000]) = .next t ∧ t.responses = [⟨.invalidArg, 0⟩] := ⟨_, rfl, rfl⟩

/-- `XMIT` waits at position 3, and the host presents a word. -/
def waiting (l : List Input) : State := { staged l with inFlight := some 3 }

theorem witness_commandWhileRunning :
    (waiting [.command 0x50000000]).inFlight = some 3 ∧
    (waiting [.command 0x50000000]).inputs = .command 0x50000000 :: [] := by decide

theorem witness_waiting : (waiting []).inputs = [] ∧ State.reset.inputs = [] := by decide

theorem witness_strayAnswer : (fresh [.answer .fail]).Idle ∧ (fresh [.answer .fail]).inputs = [.answer .fail] := by
  decide

/-- Hypotheses of the results of `BCD4`, `SETD`, `DISPLAY`, `PackedDecimalResponse`, `FourSetdsInAnyOrder`. -/
theorem witness_ready : State.reset.Ready := by decide

theorem witness_encResult :
    (staged []).Ready ∧ (∀ i : Pos, (staged []).dv[i] = true) ∧ ∃ i : Pos, State.reset.dv[i] = false := by decide

theorem witness_xmitResult :
    (staged []).Ready ∧ (∀ i : Pos, (staged []).pv[i] = true) ∧ ∃ i : Pos, State.reset.pv[i] = false := by decide

/-- The answers of an emit stage: four `OK`; `FAIL` at the first and at the last position; none at the last. -/
theorem witness_emitStage :
    (staged (answersOk 4)).inputs = answersOk 4 ++ [] ∧
    (staged [.answer .fail]).inputs = answersOk (0 : Pos).val ++ .answer .fail :: [] ∧
    (staged (answersOk 3 ++ [.answer .fail])).inputs = answersOk (3 : Pos).val ++ .answer .fail :: [] ∧
    (staged (answersOk 3)).inputs = answersOk (3 : Pos).val ++ [] ∧
    (prepared 1800 true (fresh (answersOk 4))).inputs = answersOk 4 ++ [] := by decide

theorem witness_noAnswerNext : NoAnswerNext [] ∧ NoAnswerNext [.reset] ∧ NoAnswerNext [.command 0] :=
  ⟨fun _ _ h => (by cases h), fun _ _ h => (by cases h), fun _ _ h => (by cases h)⟩

theorem witness_waitingDoesNotChange :
    (staged []).Ready ∧ (∀ j : Pos, (staged []).pv[j] = true) ∧ ∃ v c, Instr.display 0 true = .display v c :=
  ⟨by decide, by decide, _, _, rfl⟩

theorem witness_emitRecords : (staged [.answer .fail]).inputs = .answer .fail :: [] := by decide

theorem witness_shape_ok : (emitAll (staged (answersOk 4))).inFlight = none := by decide

theorem witness_shape_fail : (emitAll (staged [.answer .fail])).inFlight = none := by decide

theorem witness_noRetry : ∃ t, exec .xmit (staged [.answer .fail, .answer .ok]) = .next t ∧ t.out.length = 1 :=
  ⟨_, rfl, rfl⟩

theorem witness_digitCommandsFrame :
    (∃ t, exec (.bcd4 65535) State.reset = .next t) ∧ ∃ t, exec (.setd 3 15) State.reset = .next t :=
  ⟨⟨_, rfl⟩, ⟨_, rfl⟩⟩

theorem witness_encFrame : ∃ t, exec (.enc true) (staged []) = .next t ∧ t.responses = [⟨.ok, 0x06FF3F3F⟩] :=
  ⟨_, rfl, rfl⟩

theorem witness_xmitFrame : ∃ t, exec .xmit (staged (answersOk 4)) = .next t ∧ t.out.length = 4 := ⟨_, rfl, rfl⟩

theorem witness_displayFrame : ∃ t, exec (.display 1800 true) State.reset = .next t ∧ t.inFlight = some 0 :=
  ⟨_, rfl, rfl⟩

/-- The halted state, with a legal word, with a reserved one, and with an input that is no reset. -/
theorem witness_halted :
    ({ staged [.command 0] with fault := true } : State).Idle ∧
    ∃ t, step { staged [.command 0x10000000] with fault := true } = .next t ∧ t.fault = true :=
  ⟨by decide, _, rfl, rfl⟩

theorem witness_invalidArg :
    (fresh [.command 0]).Ready ∧ decode 0 = .error .reservedOpcode ∧
    ∃ t, exec .xmit State.reset = .next t ∧ t.responses = State.reset.responses ++ [⟨.invalidArg, 0⟩] :=
  ⟨by decide, rfl, _, rfl, rfl⟩

theorem witness_faultOnlyByFailedEmission :
    ∃ t, step (staged [.command 0x50000000, .answer .fail]) = .next t ∧ t.fault = true := ⟨_, rfl, rfl⟩

theorem witness_validFlags :
    ∃ t, step (staged [.command 0x50000000]) = .next t ∧ (staged []).dv[0] = true ∧ (staged []).pv[3] = true :=
  ⟨_, rfl, rfl, rfl⟩

theorem witness_outOnlyGrows :
    ∃ t, step { staged [.reset] with out := [⟨0, 0x34, 0x06, .ok⟩] } = .next t ∧ t.out.length = 1 := ⟨_, rfl, rfl⟩

theorem witness_modeAddress :
    (∀ e ∈ (waiting [.answer .ok]).out, e.addr ≠ 0x24) ∧ ∃ t, step (waiting [.answer .ok]) = .next t ∧
      t.out.length = 1 := ⟨by decide, _, rfl, rfl⟩

theorem witness_resetAction : (waiting [.reset]).inputs = .reset :: [] := by decide

/-- Two states that differ in the invalid registers only. -/
theorem witness_indistinguishable :
    Indistinguishable State.reset { State.reset with d := #v[9, 9, 9, 9], p := #v[1, 2, 3, 4], resets := 5 } where
  dv := rfl
  pv := rfl
  fault := rfl
  inFlight := rfl
  out := rfl
  responses := rfl
  inputs := rfl
  d := by decide
  p := by decide

theorem witness_indistinguishable_premise : ∀ k, (waiting []).inFlight = some k → (waiting []).pv = allSet :=
  fun _ _ => rfl

/-- A state that meets the invariant with a command waiting at position 1, and a step from it. -/
theorem witness_invariant :
    State.Inv { staged [.answer .ok] with inFlight := some 1, out := [⟨0, 0x34, 0x06, .ok⟩] } where
  pvEqual := .inl rfl
  patterns := fun _ i => by
    fin_cases i
    · exact ⟨1, false, by decide⟩
    · exact ⟨8, true, by decide⟩
    · exact ⟨0, false, by decide⟩
    · exact ⟨0, false, by decide⟩
  running := fun i h => by
    cases h
    exact ⟨rfl, rfl, .inr ⟨⟨0, 0x34, 0x06, .ok⟩, rfl, rfl, rfl⟩⟩
  entries := fun e he => by
    have h : e = ⟨0, 0x34, 0x06, .ok⟩ := by simpa using he
    subst h
    exact ⟨by decide, 1, false, by decide⟩
  order := ⟨.inl rfl, trivial⟩
  faulted := fun h => by cases h

theorem witness_invariant_step :
    ∃ t, step { staged [.answer .ok] with inFlight := some 1, out := [⟨0, 0x34, 0x06, .ok⟩] } = .next t ∧
      t.inFlight = some 2 := ⟨_, rfl, rfl⟩

theorem witness_admissible : segStd.Admissible := by decide

theorem witness_lanes :
    (staged []).Ready ∧ (∃ t, exec (.enc false) (staged []) = .next t) ∧
    (∃ t, exec (.enc true) { staged [] with d := #v[1, 9, 9, 9] } = .next t) ∧
    (staged []).d[(0 : Pos)] = (#v[1, 9, 9, 9] : Vector Digit 4)[(0 : Pos)] :=
  ⟨by decide, ⟨_, rfl⟩, ⟨_, rfl⟩, rfl⟩

/-- R93a, R112: the largest value in range. -/
theorem witness_inRange : (9999 : Value).toNat ≤ 9999 ∧ (fresh (answersOk 4)).Ready ∧
    (fresh (answersOk 4)).inputs = answersOk 4 ++ [] := by decide

theorem witness_scenario :
    (fresh (.command 0x100104D2 :: answersOk 4)).inputs = .command 0x100104D2 :: (answersOk 4 ++ []) := by decide

theorem witness_fourSetds : List.Perm ([3, 1, 0, 2] : List Pos) [0, 1, 2, 3] := by decide

theorem witness_stale :
    (∃ v, Instr.bcd4 8101 = .bcd4 v) ∧ (∃ k x, Instr.setd 3 15 = .setd k x) ∧ (staged (answersOk 4)).Ready ∧
    (∀ j : Pos, (staged (answersOk 4)).pv[j] = true) ∧ (staged (answersOk 4)).inputs = answersOk 4 ++ [] :=
  ⟨⟨_, rfl⟩, ⟨_, _, rfl⟩, by decide, by decide, by decide⟩

theorem witness_overwrites :
    (staged (answersOk 4)).Ready ∧ (fresh (answersOk 4)).Ready ∧
    (staged (answersOk 4)).inputs = (fresh (answersOk 4)).inputs ∧
    (staged (answersOk 4)).out = (fresh (answersOk 4)).out := by decide

theorem witness_partialUpdate :
    (fresh (answersOk 3 ++ .answer .fail :: [])).Ready ∧
    (fresh (answersOk 3 ++ .answer .fail :: [])).inputs = answersOk (3 : Pos).val ++ .answer .fail :: [] := by decide

end Sys2Proof.Tests
end

/-! PROOFS. What every step keeps: the invariant of the machine (O40), and the addresses that stand in `OUT` (O35). -/

namespace Sys2Proof.Machine

/-! ## What one step can do -/

/-- A presented word that gives a next state: the body of its command has run, a reserved encoding was answered
`INVALID_ARG`, or the block was halted (R64, R125). -/
theorem present_next {w : CmdWord} {s t : State} (h : present w s = .next t) :
    (s.Ready ∧ ∃ i, decode w = .ok i ∧ t = commandBody i s) ∨
    (s.Ready ∧ (∃ e, decode w = .error e) ∧ t = raise .invalidArg s) ∨
    (s.inFlight = none ∧ s.fault = true ∧ t = raise .halted s) := by
  unfold present at h
  rcases hw : decode w with e | i <;> rw [hw] at h
  · obtain ⟨hr, ht⟩ | hh := accept_next h
    · exact .inr (.inl ⟨hr, ⟨e, rfl⟩, ht⟩)
    · exact .inr (.inr hh)
  · obtain ⟨hr, ht⟩ | hh := exec_next h
    · exact .inl ⟨hr, i, rfl, ht⟩
    · exact .inr (.inr hh)

/-- An exception other than `TransportFault` only gives its response (R121, R123). -/
theorem raise_eq_respond {e : Exception} (he : e ≠ .transportFault) (s : State) :
    ∃ st, raise e s = respond st 0 s := by
  cases e with
  | invalidArg => exact ⟨_, rfl⟩
  | halted => exact ⟨_, rfl⟩
  | transportFault => exact absurd rfl he

/-- A command leaves `OUT` as it is, or ends in an emit stage that starts from it: `XMIT` and `DISPLAY` alone emit,
and only after their other work (R100, R110). -/
theorem commandBody_out (i : Instr) (s : State) :
    (commandBody i s).out = s.out ∨ ∃ l u, u.out = s.out ∧ commandBody i s = emitFrom l u := by
  cases i with
  | display v c => exact .inr ⟨positions, prepare seg v c s, by rw [prepare_eq, encodeLanes_eq, decompose_eq], rfl⟩
  | bcd4 v => exact .inl (by simp [commandBody, bcd4Body, decompose_eq])
  | setd i x => exact .inl rfl
  | enc c =>
    refine .inl ?_
    simp only [commandBody, encBody, encodeLanes_eq]
    split <;> rfl
  | xmit =>
    simp only [commandBody, xmitBody]
    split
    · exact .inr ⟨positions, s, rfl, rfl⟩
    · exact .inl rfl

/-- A step leaves `OUT` as it is, or ends in an emit stage that starts from it (R41). -/
theorem step_out {s t : State} (h : step s = .next t) :
    t.out = s.out ∨ ∃ l u, u.out = s.out ∧ t = emitFrom l u := by
  obtain ⟨-, e⟩ | ⟨rest, -, e⟩ | ⟨a, rest, -, e⟩ | ⟨w, rest, -, e⟩ := step_cases s <;> rw [e] at h
  · cases h; exact .inl rfl
  · cases h; exact .inl rfl
  · cases h
    unfold answerArrives
    split
    · exact .inr ⟨_, s, rfl, rfl⟩
    · exact .inl rfl
  · obtain ⟨-, i, -, rfl⟩ | ⟨-, -, rfl⟩ | ⟨-, -, rfl⟩ := present_next h
    · exact commandBody_out i _
    · exact .inl rfl
    · exact .inl rfl

/-! ## The addresses in `OUT` -/

/-- What an emit stage adds to `OUT` carries the address of its position (R42). -/
theorem emitFrom_out_addr (l : List Pos) (s : State) :
    ∀ e ∈ (emitFrom l s).out, e ∈ s.out ∨ e.addr = digitAddr e.pos := by
  induction l generalizing s with
  | nil => exact fun e he => .inl he
  | cons i rest ih =>
    have added (a : Ack) : ∀ e ∈ s.out ++ [outEntry i s.p[i] a], e ∈ s.out ∨ e.addr = digitAddr e.pos := by
      intro e he
      obtain he | he := List.mem_append.mp he
      · exact .inl he
      · obtain rfl := List.mem_singleton.mp he
        exact .inr rfl
    obtain ⟨r, -, h⟩ | ⟨r, -, h⟩ | ⟨-, h⟩ := emitFrom_cons i rest s <;> rw [h]
    · exact fun e he => (ih _ e he).elim (added .ok e) .inr
    · exact added .fail
    · exact fun e he => .inl he

/-- The mode address is the address of no position (R11, R42). -/
theorem digitAddr_ne_modeAddress (i : Pos) : digitAddr i ≠ 0x24 := by
  revert i
  decide

/-- Settles O35: a step adds to `OUT` only entries at the four digit addresses. -/
theorem modeAddressNeverWritten : Obligations.ModeAddressNeverWritten := by
  intro s t hs h e he
  obtain ho | ⟨l, u, ho, rfl⟩ := step_out h
  · exact hs e (ho ▸ he)
  · obtain hu | ha := emitFrom_out_addr l u e he
    · exact hs e (ho ▸ hu)
    · exact ha ▸ digitAddr_ne_modeAddress e.pos

/-! ## The invariant: what does not disturb it -/

/-- One more entry keeps the order of R46 exactly when it may follow the last one. -/
theorem chained_append_singleton (last : Option OutEntry) (l : List OutEntry) (e : OutEntry) :
    Chained last (l ++ [e]) ↔ Chained last l ∧ MayFollow (l.getLast?.or last) e.pos := by
  induction l generalizing last with
  | nil => simp [Chained]
  | cons x l ih =>
    have hl : (x :: l).getLast?.or last = l.getLast?.or (some x) := by
      cases hl : l.getLast? <;> simp [List.getLast?_cons, hl]
    rw [List.cons_append, Chained, ih, hl, Chained, and_assoc]

/-- After an entry answered `OK` the right neighbour of its position may be emitted (R46). -/
theorem mayFollow_of_ok {e : OutEntry} {j : Pos} (ha : e.ack = .ok) (hj : e.pos.val + 1 = j.val) :
    MayFollow (some e) j := .inr ⟨e, rfl, ha, hj⟩

/-- The invariant speaks of `P`, `PV`, `FAULT`, `OUT` and the emission in flight alone, and a command that is no
longer running owes nothing for it. -/
theorem State.Inv.of_frame {s t : State} (hs : s.Inv) (hp : t.p = s.p) (hpv : t.pv = s.pv)
    (hfault : t.fault = s.fault) (hout : t.out = s.out) (hflight : t.inFlight = s.inFlight ∨ t.inFlight = none) :
    t.Inv where
  pvEqual := by rw [hpv]; exact hs.pvEqual
  patterns := by rw [hpv, hp]; exact hs.patterns
  running := by
    obtain h | h := hflight
    · rw [h, hfault, hpv, hout]; exact hs.running
    · simp [h]
  entries := by rw [hout]; exact hs.entries
  order := by rw [hout]; exact hs.order
  faulted := by rw [hfault, hout]; exact hs.faulted

theorem State.Inv.after_respond {s : State} (hs : s.Inv) (st : Status) (x : RespData) : (respond st x s).Inv :=
  hs.of_frame rfl rfl rfl rfl (.inr rfl)

theorem State.Inv.after_raise {s : State} (hs : s.Inv) {e : Exception} (he : e ≠ .transportFault) :
    (raise e s).Inv := by
  obtain ⟨st, h⟩ := raise_eq_respond he s
  exact h ▸ hs.after_respond st 0

/-- Whatever a reset leaves in `P` is marked invalid, and `OUT` stays (R35). -/
theorem State.Inv.after_resetBlock {s : State} (hs : s.Inv) : (resetBlock s).Inv where
  pvEqual := .inr rfl
  patterns := fun h => absurd h allClear_ne_allSet
  running := by simp
  entries := hs.entries
  order := hs.order
  faulted := by simp

theorem State.Inv.after_decompose {s : State} (hs : s.Inv) (v : Value) : (decompose v s).Inv := by
  rw [decompose_eq]
  exact hs.of_frame rfl rfl rfl rfl (.inl rfl)

theorem State.Inv.after_writeDigit {s : State} (hs : s.Inv) (i : Pos) (x : Digit) : (writeDigit i x s).Inv :=
  hs.of_frame rfl rfl rfl rfl (.inl rfl)

/-- Lane `i` of the encoder holds the pattern of `D[i]`, with the colon bit at position 1 only (R90). -/
theorem encodeLanes_get (t : SegTable) (c : Bool) (s : State) (i : Pos) :
    (encodeLanes t c positions s).p[i] = seg7 t s.d[i] (i == colonPos && c) := by
  rw [encodeLanes_eq]
  fin_cases i <;> rfl

/-- The encoder's lanes make every pattern valid and a table pattern (R6, R90). -/
theorem State.Inv.after_encodeLanes {s : State} (hs : s.Inv) (c : Bool) : (encodeLanes seg c positions s).Inv where
  pvEqual := by rw [encodeLanes_eq]; exact .inl rfl
  patterns := fun _ i => ⟨s.d[i], c, encodeLanes_get seg c s i⟩
  running := by
    rw [encodeLanes_eq]
    intro i hi
    obtain ⟨hf, -, hm⟩ := hs.running i hi
    exact ⟨hf, rfl, hm⟩
  entries := by rw [encodeLanes_eq]; exact hs.entries
  order := by rw [encodeLanes_eq]; exact hs.order
  faulted := by rw [encodeLanes_eq]; exact hs.faulted

/-! ## The invariant along an emit stage -/

/-- One answered emission of a valid pattern that may follow: `FAULT` may be raised if the answer was `FAIL`. -/
theorem State.Inv.append_entry {s t : State} (hs : s.Inv) {i : Pos} {a : Ack} (hpvSet : s.pv = allSet)
    (hmay : MayFollow s.out.getLast? i) (hp : t.p = s.p) (hpv : t.pv = s.pv) (hflight : t.inFlight = none)
    (hout : t.out = s.out ++ [outEntry i s.p[i] a]) (hfault : t.fault = true → a = .fail) : t.Inv where
  pvEqual := by rw [hpv]; exact hs.pvEqual
  patterns := by rw [hpv, hp]; exact hs.patterns
  running := by simp [hflight]
  entries := by
    intro e he
    rw [hout, List.mem_append, List.mem_singleton] at he
    obtain he | rfl := he
    · exact hs.entries e he
    · exact ⟨rfl, hs.patterns hpvSet i⟩
  order := by
    rw [hout, chained_append_singleton, Option.or_none]
    exact ⟨hs.order, hmay⟩
  faulted := fun h => ⟨outEntry i s.p[i] a, by rw [hout, List.getLast?_concat], hfault h⟩

/-- Can an emit stage over these positions start here? Each position is the right neighbour of the one before it,
and the first may follow the last entry of `OUT` (R46, R101). -/
def EmitStageFits (l : List Pos) (s : State) : Prop :=
  l.IsChain (fun i j => i.val + 1 = j.val) ∧ ∀ i ∈ l.head?, MayFollow s.out.getLast? i

/-- After an answer `OK` the rest of the emit stage fits. -/
theorem EmitStageFits.tail {i : Pos} {rest : List Pos} {s t : State} (h : EmitStageFits (i :: rest) s)
    {e : OutEntry} (hpos : e.pos = i) (hok : e.ack = .ok) (hout : t.out = s.out ++ [e]) : EmitStageFits rest t := by
  obtain ⟨hnext, hrest⟩ := List.isChain_cons.mp h.1
  refine ⟨hrest, fun j hj => ?_⟩
  rw [hout, List.getLast?_concat]
  exact mayFollow_of_ok hok (hpos ▸ hnext j hj)

/-- The positions from `i` on are `i` and its right neighbours in turn (R46). -/
theorem positionsFrom_chain (i : Pos) :
    (positionsFrom i).IsChain (fun i j => i.val + 1 = j.val) ∧ (positionsFrom i).head? = some i := by
  revert i
  decide

theorem emitStageFits_positionsFrom {i : Pos} {s : State} (h : MayFollow s.out.getLast? i) :
    EmitStageFits (positionsFrom i) s := by
  obtain ⟨hchain, hhead⟩ := positionsFrom_chain i
  exact ⟨hchain, by simpa [hhead] using h⟩

theorem emitStageFits_positions (s : State) : EmitStageFits positions s :=
  emitStageFits_positionsFrom (i := 0) (.inl rfl)

/-- An emit stage over valid patterns keeps the invariant, however its emissions are answered (R101). -/
theorem State.Inv.after_emitFrom {l : List Pos} {s : State} (hs : s.Inv) (hr : s.Ready) (hpv : s.pv = allSet)
    (hl : EmitStageFits l s) : (emitFrom l s).Inv := by
  induction l generalizing s with
  | nil => exact hs.after_respond .ok 0
  | cons i rest ih =>
    obtain ⟨hi, hf⟩ := hr
    have hmay : MayFollow s.out.getLast? i := hl.2 i rfl
    obtain ⟨r, -, e⟩ | ⟨r, -, e⟩ | ⟨-, e⟩ := emitFrom_cons i rest s <;> rw [e]
    · refine ih (hs.append_entry hpv hmay rfl rfl hi rfl ?_) ⟨hi, hf⟩ hpv (hl.tail rfl rfl rfl)
      simp [hf]
    · exact hs.append_entry (a := .fail) hpv hmay rfl rfl rfl rfl fun _ => rfl
    · exact { hs with running := fun j hj => by cases hj; exact ⟨hf, hpv, hmay⟩ }

/-- A command that waits goes on at the position it waits at (R52); a stray answer is only consumed. -/
theorem State.Inv.after_answerArrives {s : State} (hs : s.Inv) : (answerArrives s).Inv := by
  unfold answerArrives
  split
  · next i hi =>
    obtain ⟨hf, hpv, hmay⟩ := hs.running i hi
    rw [← emitFrom_inFlight _ s none]
    have hidle : State.Inv { s with inFlight := none } := hs.of_frame rfl rfl rfl rfl (.inr rfl)
    exact hidle.after_emitFrom ⟨rfl, hf⟩ hpv (emitStageFits_positionsFrom hmay)
  · exact hs.of_frame rfl rfl rfl rfl (.inl rfl)

/-! ## The invariant along a step -/

/-- Each command keeps the invariant in a ready block. -/
theorem State.Inv.after_commandBody {s : State} (hs : s.Inv) (hr : s.Ready) (i : Instr) : (commandBody i s).Inv := by
  cases i with
  | display v c =>
    have hinv : (prepare seg v c s).Inv := by
      rw [prepare_eq]
      exact (hs.after_decompose v).after_encodeLanes c
    have hready : (prepare seg v c s).Ready := by
      rw [prepare_eq, encodeLanes_eq, decompose_eq]
      exact hr
    have hpv : (prepare seg v c s).pv = allSet := by rw [prepare_eq, encodeLanes_eq]
    exact hinv.after_emitFrom hready hpv (emitStageFits_positions _)
  | bcd4 v => exact (hs.after_decompose v).after_respond _ _
  | setd i x => exact (hs.after_writeDigit i x).after_respond _ _
  | enc c =>
    simp only [commandBody, encBody]
    split
    · exact (hs.after_encodeLanes c).after_respond _ _
    · exact hs.after_raise (by decide)
  | xmit =>
    simp only [commandBody, xmitBody]
    split
    · next h => exact hs.after_emitFrom hr ((allValid_iff _).mp h) (emitStageFits_positions s)
    · exact hs.after_raise (by decide)

/-- Settles O40: each input keeps the invariant, a presented command by `State.Inv.after_commandBody`, an answer by
`State.Inv.after_emitFrom`. -/
theorem stepKeepsInvariant : Obligations.StepKeepsInvariant := by
  intro s t hs h
  have hconsumed (rest : List Input) : State.Inv { s with inputs := rest } :=
    hs.of_frame rfl rfl rfl rfl (.inl rfl)
  obtain ⟨-, e⟩ | ⟨rest, -, e⟩ | ⟨a, rest, -, e⟩ | ⟨w, rest, -, e⟩ := step_cases s <;> rw [e] at h
  · cases h; exact hs
  · cases h; exact (hconsumed rest).after_resetBlock
  · cases h; exact hs.after_answerArrives
  · obtain ⟨hr, i, -, rfl⟩ | ⟨-, -, rfl⟩ | ⟨-, -, rfl⟩ := present_next h
    · exact (hconsumed rest).after_commandBody hr i
    · exact (hconsumed rest).after_raise (by decide)
    · exact (hconsumed rest).after_raise (by decide)

end Sys2Proof.Machine

/-! PROOFS. The state of the block: what an invalid register holds is never observed (O38), how `FAULT` and the valid
flags change (O32, O33), what a step and a reset do (O7, O36), the state a run starts in (O37, O39), and the Segment
Tables (O41, O47). -/

namespace Sys2Proof.Machine

/-! ## States that no host and no transport can tell apart -/

/-- Registers that are all valid are equal in states that agree where the flag is 1. -/
theorem vector4_eq_of_allSet {α : Type} {flags : Vector Bool 4} {v w : Vector α 4} (hset : flags = allSet)
    (h : ∀ i : Pos, flags[i] = true → v[i] = w[i]) : v = w := by
  subst hset
  exact vector4_ext (h 0 rfl) (h 1 rfl) (h 2 rfl) (h 3 rfl)

/-- An answer with no emission in flight is only consumed (log 9). -/
theorem answerArrives_idle {s : State} (h : s.inFlight = none) :
    answerArrives s = { s with inputs := s.inputs.tail } := by simp [answerArrives, h]

/-- An answer lets the command that waits go on from its position (R52). -/
theorem answerArrives_running {s : State} {k : Pos} (h : s.inFlight = some k) :
    answerArrives s = emitFrom (positionsFrom k) s := by simp [answerArrives, h]

namespace Indistinguishable

variable {s t : State}

theorem digits_eq (h : Indistinguishable s t) (hdv : s.dv = allSet) : s.d = t.d := vector4_eq_of_allSet hdv h.d

theorem patterns_eq (h : Indistinguishable s t) (hpv : s.pv = allSet) : s.p = t.p := vector4_eq_of_allSet hpv h.p

theorem ready_iff (h : Indistinguishable s t) : s.Ready ↔ t.Ready := by
  simp only [State.Ready, h.inFlight, h.fault]

theorem set_inputs (h : Indistinguishable s t) (l : List Input) :
    Indistinguishable { s with inputs := l } { t with inputs := l } :=
  { h with inputs := rfl }

theorem set_inFlight (h : Indistinguishable s t) (k : Option Pos) :
    Indistinguishable { s with inFlight := k } { t with inFlight := k } :=
  { h with inFlight := rfl }

theorem append_out (h : Indistinguishable s t) (e : OutEntry) :
    Indistinguishable { s with out := s.out ++ [e] } { t with out := t.out ++ [e] } :=
  { h with out := congrArg (· ++ [e]) h.out }

theorem after_respond (h : Indistinguishable s t) (st : Status) (x : RespData) :
    Indistinguishable (respond st x s) (respond st x t) :=
  { h with inFlight := rfl, responses := congrArg (· ++ [Response.mk st x]) h.responses }

theorem after_setFault (h : Indistinguishable s t) : Indistinguishable (setFault s) (setFault t) :=
  { h with fault := rfl }

theorem after_raise (h : Indistinguishable s t) (e : Exception) : Indistinguishable (raise e s) (raise e t) := by
  cases e with
  | invalidArg => exact h.after_respond _ _
  | transportFault => exact h.after_setFault.after_respond _ _
  | halted => exact h.after_respond _ _

/-- After a reset no register is valid, so its free values do not matter (R35, U1). -/
theorem after_resetBlock (h : Indistinguishable s t) : Indistinguishable (resetBlock s) (resetBlock t) :=
  { h with
    dv := rfl, pv := rfl, fault := rfl, inFlight := rfl
    d := fun i hi => by simp at hi
    p := fun i hi => by simp at hi }

/-- A digit write puts the same digit in both, and says nothing of the other registers (R81). -/
theorem after_writeDigit (h : Indistinguishable s t) (i : Pos) (x : Digit) :
    Indistinguishable (writeDigit i x s) (writeDigit i x t) :=
  { h with
    dv := congrArg (·.set i true) h.dv
    d := fun j hj => by
      by_cases hij : i = j
      · simp [hij]
      · have hne : i.val ≠ j.val := Fin.val_ne_of_ne hij
        have hjs : s.dv[j] = true := by simpa [hne] using hj
        simpa [hne] using h.d j hjs }

theorem after_decompose (h : Indistinguishable s t) (v : Value) :
    Indistinguishable (decompose v s) (decompose v t) := by
  simp only [decompose_eq]
  exact { h with dv := rfl, d := fun _ _ => rfl }

/-- The encoder reads every digit, so it needs all of them valid; it overwrites every pattern (R90). -/
theorem after_encodeLanes (h : Indistinguishable s t) (hdv : s.dv = allSet) (table : SegTable) (c : Bool) :
    Indistinguishable (encodeLanes table c positions s) (encodeLanes table c positions t) := by
  simp only [encodeLanes_eq]
  exact { h with pv := rfl, p := fun _ _ => by simp only [h.digits_eq hdv] }

/-! ## The commands over indistinguishable states -/

/-- An emit stage reads patterns, so it needs all of them valid (R100, R101). -/
theorem after_emitFrom (h : Indistinguishable s t) (hpv : s.pv = allSet) (l : List Pos) :
    Indistinguishable (emitFrom l s) (emitFrom l t) := by
  induction l generalizing s t with
  | nil => exact h.after_respond .ok 0
  | cons i rest ih =>
    have hp : s.p[i] = t.p[i] := by rw [h.patterns_eq hpv]
    obtain ⟨r, hin, e⟩ | ⟨r, hin, e⟩ | ⟨hin, e⟩ := emitFrom_cons i rest s
    · rw [e, emitFrom, emit_answered (h.inputs ▸ hin), hp]
      exact ih ((h.append_out _).set_inputs r) hpv
    · rw [e, emitFrom, emit_answered (h.inputs ▸ hin), hp]
      exact ((h.append_out _).set_inputs r).after_raise .transportFault
    · rw [e, emitFrom, emit_unanswered (h.inputs ▸ hin)]
      exact h.set_inFlight (some i)

/-- The guards of `ENC` and `XMIT` keep an invalid register from being read; `DISPLAY` writes all it reads
(R90, R100, R110). -/
theorem after_commandBody (h : Indistinguishable s t) (i : Instr) :
    Indistinguishable (commandBody i s) (commandBody i t) := by
  cases i with
  | display v c =>
    simp only [commandBody, displayBody, prepare_eq]
    have hdv : (decompose v s).dv = allSet := by rw [decompose_eq]
    have hpv : (encodeLanes seg c positions (decompose v s)).pv = allSet := by rw [encodeLanes_eq]
    exact ((h.after_decompose v).after_encodeLanes hdv seg c).after_emitFrom hpv positions
  | bcd4 v =>
    have hu := h.after_decompose v
    have hdv : (decompose v s).dv = allSet := by rw [decompose_eq]
    simp only [commandBody, bcd4Body, hu.digits_eq hdv]
    exact hu.after_respond _ _
  | setd i x => exact (h.after_writeDigit i x).after_respond _ _
  | enc c =>
    simp only [commandBody, encBody, ← h.dv]
    split
    · next hv =>
      have hu := h.after_encodeLanes ((allValid_iff _).mp hv) seg c
      have hpv : (encodeLanes seg c positions s).pv = allSet := by rw [encodeLanes_eq]
      rw [hu.patterns_eq hpv]
      exact hu.after_respond _ _
    · exact h.after_raise _
  | xmit =>
    simp only [commandBody, xmitBody, ← h.pv]
    split
    · next hv => exact h.after_emitFrom ((allValid_iff _).mp hv) positions
    · exact h.after_raise _

/-! ## A step over indistinguishable states -/

theorem accept_agree (h : Indistinguishable s t) {body : State → State}
    (hbody : Indistinguishable (body s) (body t)) :
    OutcomesAgree Indistinguishable (accept body s) (accept body t) := by
  obtain ⟨hr, e⟩ | ⟨hi, hf, e⟩ | ⟨k, hk, e⟩ := accept_cases body s
  · rw [e, accept_ready body (h.ready_iff.mp hr)]
    exact hbody
  · rw [e, accept_halted body (h.inFlight ▸ hi) (h.fault ▸ hf)]
    exact h.after_raise .halted
  · rw [e, accept_running body (h.inFlight ▸ hk)]
    rfl

theorem present_agree (h : Indistinguishable s t) (w : CmdWord) :
    OutcomesAgree Indistinguishable (present w s) (present w t) := by
  unfold present
  split
  · next i _ =>
    simp only [exec_eq_accept]
    exact h.accept_agree (h.after_commandBody i)
  · exact h.accept_agree (h.after_raise .invalidArg)

theorem after_answerArrives (h : Indistinguishable s t) (hrun : ∀ k, s.inFlight = some k → s.pv = allSet) :
    Indistinguishable (answerArrives s) (answerArrives t) := by
  rcases hk : s.inFlight with _ | k
  · rw [answerArrives_idle hk, answerArrives_idle (h.inFlight ▸ hk), h.inputs]
    exact h.set_inputs _
  · rw [answerArrives_running hk, answerArrives_running (h.inFlight ▸ hk)]
    exact h.after_emitFrom (hrun k hk) _

end Indistinguishable

/-- Settles O38, by the next input: a word by `Indistinguishable.present_agree`, an answer by
`Indistinguishable.after_emitFrom`. -/
theorem invalidRegistersUnobservable : Obligations.InvalidRegistersUnobservable := by
  intro s t h hrun
  have hin : t.inputs = s.inputs := h.inputs.symm
  unfold step
  rw [hin]
  split
  · exact h
  · next rest _ => exact (h.set_inputs rest).after_resetBlock
  · exact h.after_answerArrives hrun
  · next w rest _ => exact (h.set_inputs rest).present_agree w

/-! ## What a step other than a reset does before it responds or emits -/

/-- `u` comes from `s` by writing digits and patterns, taking inputs and responding: nothing is emitted, `FAULT`
stands, and no valid flag is cleared (R22, R24, R25). -/
structure WritesOnly (s u : State) : Prop where
  out : u.out = s.out
  fault : u.fault = s.fault
  dv : ∀ i : Pos, s.dv[i] = true → u.dv[i] = true
  pv : ∀ i : Pos, s.pv[i] = true → u.pv[i] = true

namespace WritesOnly

theorem refl (s : State) : WritesOnly s s := ⟨rfl, rfl, fun _ => id, fun _ => id⟩

theorem of_writeDigit (s : State) (i : Pos) (x : Digit) : WritesOnly s (writeDigit i x s) where
  out := rfl
  fault := rfl
  dv := fun j hj => by
    by_cases hij : i.val = j.val
    · simp [hij]
    · simpa [hij] using hj
  pv := fun _ => id

theorem of_decompose (s : State) (v : Value) : WritesOnly s (decompose v s) := by
  rw [decompose_eq]
  exact ⟨rfl, rfl, fun i _ => allSet_get i i.isLt, fun _ => id⟩

theorem of_encodeLanes (s : State) (t : SegTable) (c : Bool) : WritesOnly s (encodeLanes t c positions s) := by
  rw [encodeLanes_eq]
  exact ⟨rfl, rfl, fun _ => id, fun i _ => allSet_get i i.isLt⟩

theorem trans {s u t : State} (h : WritesOnly s u) (h' : WritesOnly u t) : WritesOnly s t where
  out := h'.out.trans h.out
  fault := h'.fault.trans h.fault
  dv := fun i hi => h'.dv i (h.dv i hi)
  pv := fun i hi => h'.pv i (h.pv i hi)

theorem after_respond {s u : State} (h : WritesOnly s u) (st : Status) (x : RespData) : WritesOnly s (respond st x u) :=
  ⟨h.out, h.fault, h.dv, h.pv⟩

end WritesOnly

/-- A command only writes registers and responds, or it writes registers and ends in an emit stage. -/
theorem commandBody_writes_or_emits (i : Instr) (s : State) :
    WritesOnly s (commandBody i s) ∨ ∃ l u, WritesOnly s u ∧ commandBody i s = emitFrom l u := by
  cases i with
  | display v c =>
    refine .inr ⟨positions, prepare seg v c s, ?_, rfl⟩
    rw [prepare_eq]
    exact (WritesOnly.of_decompose s v).trans (.of_encodeLanes _ seg c)
  | bcd4 v => exact .inl ((WritesOnly.of_decompose s v).after_respond _ _)
  | setd i x => exact .inl ((WritesOnly.of_writeDigit s i x).after_respond _ _)
  | enc c =>
    simp only [commandBody, encBody]
    split
    · exact .inl ((WritesOnly.of_encodeLanes s seg c).after_respond _ _)
    · exact .inl ((WritesOnly.refl s).after_respond _ _)
  | xmit =>
    simp only [commandBody, xmitBody]
    split
    · exact .inr ⟨positions, s, .refl s, rfl⟩
    · exact .inl ((WritesOnly.refl s).after_respond _ _)

/-- A step is a reset, or only writes registers and responds, or writes registers and ends in an emit stage. -/
theorem step_reset_or_writes_or_emits {s t : State} (h : step s = .next t) :
    (∃ rest, s.inputs = .reset :: rest ∧ t = resetBlock { s with inputs := rest }) ∨
    WritesOnly s t ∨ ∃ l u, WritesOnly s u ∧ t = emitFrom l u := by
  have hconsumed (l : List Input) : WritesOnly s { s with inputs := l } := ⟨rfl, rfl, fun _ => id, fun _ => id⟩
  obtain ⟨-, e⟩ | ⟨rest, hin, e⟩ | ⟨a, rest, -, e⟩ | ⟨w, rest, -, e⟩ := step_cases s <;> rw [e] at h
  · cases h; exact .inr (.inl (.refl s))
  · cases h; exact .inl ⟨rest, hin, rfl⟩
  · cases h
    rcases hk : s.inFlight with _ | k
    · exact .inr (.inl (answerArrives_idle hk ▸ hconsumed _))
    · exact .inr (.inr ⟨_, s, .refl s, answerArrives_running hk⟩)
  · refine .inr ?_
    obtain ⟨-, i, -, rfl⟩ | ⟨-, -, rfl⟩ | ⟨-, -, rfl⟩ := present_next h
    · obtain hw | ⟨l, u, hw, hu⟩ := commandBody_writes_or_emits i { s with inputs := rest }
      · exact .inl ((hconsumed rest).trans hw)
      · exact .inr ⟨l, u, (hconsumed rest).trans hw, hu⟩
    · exact .inl ((hconsumed rest).after_respond _ _)
    · exact .inl ((hconsumed rest).after_respond _ _)

/-! ## `FAULT` and the valid flags -/

/-- An emit stage that sets `FAULT` ends with the failed emission it adds to `OUT` (R101, R122). -/
theorem emitFrom_fault (l : List Pos) {s : State} (hs : s.fault = false) (h : (emitFrom l s).fault = true) :
    ∃ before e, (emitFrom l s).out = before ++ [e] ∧ e.ack = .fail ∧ s.out.length ≤ before.length := by
  induction l generalizing s with
  | nil => simp [emitFrom, hs] at h
  | cons i rest ih =>
    obtain ⟨r, -, e⟩ | ⟨r, -, e⟩ | ⟨-, e⟩ := emitFrom_cons i rest s <;> rw [e] at h ⊢
    · obtain ⟨before, x, hout, hx, hlen⟩ :=
        ih (s := { s with inputs := r, out := s.out ++ [outEntry i s.p[i] .ok] }) hs h
      refine ⟨before, x, hout, hx, ?_⟩
      simp only [List.length_append] at hlen
      omega
    · exact ⟨s.out, outEntry i s.p[i] .fail, rfl, rfl, le_rfl⟩
    · simp [hs] at h

/-- Settles O32: of the three things a step can do only an emit stage sets `FAULT`, by `emitFrom_fault`. -/
theorem faultOnlyByFailedEmission : Obligations.FaultOnlyByFailedEmission := by
  intro s t hs h ht
  obtain ⟨rest, -, rfl⟩ | hw | ⟨l, u, hw, rfl⟩ := step_reset_or_writes_or_emits h
  · simp at ht
  · simp [hw.fault, hs] at ht
  · rw [← hw.out]
    exact emitFrom_fault l (hw.fault.trans hs) ht

/-- Settles O33: writes set valid flags, and an emit stage leaves them alone (`emitFrom_frame`). -/
theorem validFlagsClearedOnlyByReset : Obligations.ValidFlagsClearedOnlyByReset := by
  intro s t hin h i
  obtain ⟨rest, hr, -⟩ | hw | ⟨l, u, hw, rfl⟩ := step_reset_or_writes_or_emits h
  · exact absurd hr (hin rest)
  · exact ⟨hw.dv i, hw.pv i⟩
  · obtain ⟨-, hdv, -, hpv, -⟩ := emitFrom_frame l u
    rw [hdv, hpv]
    exact ⟨hw.dv i, hw.pv i⟩

/-! ## Segment Tables -/

/-- A pattern with bit 7 clear is its own segment bits, whether or not the colon bit is OR-ed in (R31). -/
theorem or_colonBit_and_segments : ∀ (b : Pattern) (c : Bool), b.getLsbD 7 = false →
    (b ||| if c then colonBit else 0) &&& 0x7F = b := by
  decide

/-- The colon bit does not disturb the seven segment bits (R28b, R91). -/
theorem seg7_and_segments {t : SegTable} (ht : t.Admissible) (d : Digit) (c : Bool) :
    seg7 t d c &&& 0x7F = t.read d := by
  obtain ⟨-, -, -, -, hbit⟩ := ht
  have hclear : (t.read d).getLsbD 7 = false := by simpa using hbit d.toFin
  exact or_colonBit_and_segments _ c hclear

/-- `DEC7` reads a decimal digit back from its pattern, with or without the colon bit (R31). -/
theorem dec7_seg7 {t : SegTable} (ht : t.Admissible) {n : Nat} (hn : n < 10) (c : Bool) :
    dec7 t (seg7 t (BitVec.ofNat 4 n) c) = some n := by
  rw [dec7, seg7_and_segments ht, List.find?_range_eq_some]
  obtain ⟨-, -, -, hinj, -⟩ := ht
  refine ⟨beq_self_eq_true _, List.mem_range.mpr hn, fun j hj => ?_⟩
  have hne : t.read (BitVec.ofNat 4 j) ≠ t.read (BitVec.ofNat 4 n) := fun heq =>
    hj.ne (congrArg Fin.val (hinj ⟨j, hj.trans hn⟩ ⟨n, hn⟩ heq))
  simpa using hne

/-- Four decimal digits are read back from their patterns, the colon on the second (R93a, R112). -/
theorem decimalShown_seg7 {t : SegTable} (ht : t.Admissible) {m n k l : Nat} (hm : m < 10) (hn : n < 10)
    (hk : k < 10) (hl : l < 10) (c : Bool) :
    decimalShown t #v[seg7 t (BitVec.ofNat 4 m) false, seg7 t (BitVec.ofNat 4 n) c, seg7 t (BitVec.ofNat 4 k) false,
      seg7 t (BitVec.ofNat 4 l) false] = some (1000 * m + 100 * n + 10 * k + l) := by
  simp [decimalShown, dec7_seg7 ht, hm, hn, hk, hl]

/-- The digit register of R80 holds the decimal digit as a number. -/
theorem setWidth_mod_ten (x : Value) : (x % 10).setWidth 4 = BitVec.ofNat 4 (x.toNat % 10) := by
  apply BitVec.eq_of_toNat_eq
  simp

/-- Settles O47: each prepared pattern is read back by `dec7_seg7`, and the four digits make up the value. -/
theorem anyAdmissibleTableReadsBack : Obligations.AnyAdmissibleTableReadsBack := by
  intro t v c s ht
  have hdigit (n : Nat) : n % 10 < 10 := Nat.mod_lt n (by decide)
  simp only [prepare_eq, encodeLanes_eq, decompose_eq, setWidth_mod_ten]
  refine (decimalShown_seg7 ht (hdigit _) (hdigit _) (hdigit _) (hdigit _) c).trans (congrArg some ?_)
  simp only [BitVec.toNat_udiv, BitVec.reduceToNat]
  omega

/-- Settles O41: the laws by evaluation of the sixteen entries, the reading back by `dec7_seg7`. -/
theorem defaultTableAdmissible : Obligations.DefaultTableAdmissible := by
  have hadm : segStd.Admissible := by decide
  refine ⟨hadm, fun n => ⟨?_, dec7_seg7 hadm n.isLt true⟩⟩
  simpa [seg7] using dec7_seg7 hadm n.isLt false

/-! ## One input, and the state a run starts in -/

/-- Settles O7: `step` hands the word to `present`, and `present` to `exec`. -/
theorem stepRunsDecodedCommand : Obligations.StepRunsDecodedCommand := by
  intro s w rest i hin hw
  simp only [step, hin, present, hw]

/-- Settles O36: the registers and the count are those of `resetBlock`. -/
theorem resetAction : Obligations.ResetAction := by
  intro s rest hin
  refine ⟨(resetBlock s).d, (resetBlock s).p, (resetBlock s).resets, ?_⟩
  simp only [step, hin]
  rfl

/-- Settles O37, by evaluation of `State.reset`. -/
theorem resetStateFlags : Obligations.ResetStateFlags := ⟨rfl, by decide, rfl, rfl⟩

/-- Settles O39: with all flags 0 and `OUT` empty each part of the invariant holds of nothing. -/
theorem resetMeetsInvariant : Obligations.ResetMeetsInvariant where
  pvEqual := .inr rfl
  patterns := fun h => absurd h allClear_ne_allSet
  running := by simp [State.reset]
  entries := by simp [State.reset]
  order := trivial
  faulted := by simp [State.reset]

end Sys2Proof.Machine

/-! PROOFS. Emission to the four digit positions: one emission (O22), the wait with no input (O12), and where an emit
stage waits for an answer (O20). -/

namespace Sys2Proof.Machine

/-! ## One emission, and no input -/

/-- Settles O22, by the two rules of one emission `emit_answered` and `emit_unanswered`. -/
theorem emitRecordsTheAnswer : Obligations.EmitRecordsTheAnswer :=
  ⟨fun i b _ _ _ hin => emit_answered hin i b, fun i b _ hno => emit_unanswered hno i b, by decide⟩

/-- Settles O12, by the first branch of `step`. -/
theorem waitingChangesNothing : Obligations.WaitingChangesNothing := by
  intro s hin
  simp only [step, hin]

/-! ## The emit stage while its answers are `OK` -/

/-- Answers `OK` take the emit stage through that many of its positions, whatever comes after (R101). -/
theorem emitFrom_append_of_answersOk (sent l : List Pos) {s : State} {env : List Input}
    (hin : s.inputs = answersOk sent.length ++ env) :
    emitFrom (sent ++ l) s =
      emitFrom l { s with inputs := env, out := s.out ++ sent.map (entryAt s.p .ok) } := by
  induction sent generalizing s with
  | nil =>
    have henv : s.inputs = env := hin
    simp [← henv]
  | cons i sent ih =>
    have hok : s.inputs = .answer .ok :: (answersOk sent.length ++ env) := hin
    rw [List.cons_append, emitFrom, emit_answered hok, List.map_cons,
      List.append_cons s.out (entryAt s.p .ok i)]
    exact ih (s := { s with inputs := _, out := _ }) rfl

/-- After `n` answers `OK` the emit stage of a command goes on from position `n` (R46, R101). -/
theorem emitAll_of_answersOk {n : Nat} (hn : n ≤ 4) {s : State} {env : List Input}
    (hin : s.inputs = answersOk n ++ env) :
    emitAll s = emitFrom (positions.drop n) { s with inputs := env, out := s.out ++ sentOk s.p n } := by
  have hlen : (positions.take n).length = n := List.length_take_of_le hn
  calc emitAll s = emitFrom (positions.take n ++ positions.drop n) s := by rw [List.take_append_drop, emitAll]
    _ = _ := emitFrom_append_of_answersOk _ _ (hlen.symm ▸ hin)

/-! ## Where the answers stop -/

/-- With no answer next the emit stage from position `k` on waits at `k` (R52). -/
theorem emitFrom_positionsFrom_of_noAnswerNext (k : Pos) {s : State} (h : NoAnswerNext s.inputs) :
    emitFrom (positionsFrom k) s = { s with inFlight := some k } := by
  obtain ⟨rest, hk⟩ := List.head?_eq_some_iff.mp (positionsFrom_chain k).2
  rw [hk, emitFrom, emit_unanswered h]

/-- The emit stage of a command waits at the first position that has no answer (R52, R101). -/
theorem emitAll_waits (s : State) : EmitStageWaits s (.next (emitAll s)) := by
  intro k env hin hno
  rw [emitAll_of_answersOk k.isLt.le hin]
  exact congrArg Host.Outcome.next (emitFrom_positionsFrom_of_noAnswerNext k hno)

/-! ## The commands that emit, in a ready block -/

/-- In a ready block a command does what it does once the checks have passed (R125). -/
theorem exec_ready (i : Instr) {s : State} (h : s.Ready) : exec i s = .next (commandBody i s) :=
  (exec_eq_accept i s).trans (accept_ready _ h)

/-- With all patterns valid `XMIT` is the emit stage (R100). -/
theorem exec_xmit_eq_emitAll {s : State} (h : s.Ready) (hpv : ∀ i : Pos, s.pv[i] = true) :
    exec .xmit s = .next (emitAll s) := by
  have hvalid : allValid s.pv = true := (allValid_iff _).mpr (vector4_ext (hpv 0) (hpv 1) (hpv 2) (hpv 3))
  rw [exec_ready .xmit h, commandBody, xmitBody, if_pos hvalid]

/-- The quotients of the decomposition loop are those of the closed form of R80. -/
theorem value_div_ten (v : Value) : v / 10 / 10 = v / 100 ∧ v / 10 / 10 / 10 = v / 1000 := by
  constructor <;> apply BitVec.eq_of_toNat_eq <;> simp [Nat.div_div_eq_div_mul]

/-- The decomposition loop leaves the four digits of the closed form, all valid (R80). -/
theorem decompose_eq_digitsOf (v : Value) (s : State) :
    decompose v s = { s with d := digitsOf v, dv := allSet } := by
  obtain ⟨h100, h1000⟩ := value_div_ten v
  rw [decompose_eq, h1000, h100]
  rfl

/-- The encoder's lanes leave the four patterns of R90 spelt out, all valid. -/
theorem encodeLanes_eq_patternsOf (t : SegTable) (c : Bool) (s : State) :
    encodeLanes t c positions s = { s with p := patternsOf t s.d c, pv := allSet } := by
  rw [encodeLanes_eq]
  simp [patternsOf, seg7, colonBit]

/-- Steps 1 to 3 of `DISPLAY` in closed form (R110). -/
theorem prepare_eq_prepared (v : Value) (c : Bool) (s : State) : prepare seg v c s = prepared v c s := by
  rw [prepare_eq, decompose_eq_digitsOf, encodeLanes_eq_patternsOf]
  rfl

/-- `DISPLAY` is the emit stage over the registers of its steps 1 to 3 (R110). -/
theorem exec_display_eq_emitAll (v : Value) (c : Bool) {s : State} (h : s.Ready) :
    exec (.display v c) s = .next (emitAll (prepared v c s)) := by
  rw [exec_ready _ h, commandBody, displayBody, prepare_eq_prepared]

/-- Settles O20: both commands come to an emit stage, which waits as `emitAll_waits` says. -/
theorem unansweredEmissionWaits : Obligations.UnansweredEmissionWaits := by
  refine fun s hr => ⟨fun hpv => ?_, fun v c => ?_⟩
  · rw [exec_xmit_eq_emitAll hr hpv]
    exact emitAll_waits s
  · rw [exec_display_eq_emitAll v c hr]
    exact emitAll_waits (prepared v c s)

end Sys2Proof.Machine

/-! PROOFS. The command words: the decoder and the encoder undo each other (O1, O2), the pattern table (O4), the
reserved encodings (O3), the written form of a command (O6), example words and status codes (O5, O10), and the one
response of a presented word (O9). -/

namespace Sys2Proof

/-! ## The rows of the pattern table -/

/-- All four bits of the opcode stand in every row's mask (R61). -/
theorem opField_mask : ∀ r ∈ encodingRows, opField r.mask = BitVec.allOnes 4 := by decide

/-- No two rows have the same opcode (R61, R63). -/
theorem opcodes_nodup : (encodingRows.map fun r => opField r.pattern).Nodup := by decide

/-- A word has the opcode of the row it matches (R61). -/
theorem opField_eq_of_rowMatches {w : CmdWord} {r : EncodingRow} (hr : r ∈ encodingRows)
    (h : rowMatches w r = true) : opField w = opField r.pattern := by
  have hw : w &&& r.mask = r.pattern := eq_of_beq h
  have hmask : opField (w &&& r.mask) = opField w &&& opField r.mask := BitVec.extractLsb'_and
  rw [← hw, hmask, opField_mask r hr, BitVec.and_allOnes]

/-- A word matches at most one row (R61). -/
theorem row_eq_of_rowMatches {w : CmdWord} {a b : EncodingRow} (ha : a ∈ encodingRows) (hb : b ∈ encodingRows)
    (hwa : rowMatches w a = true) (hwb : rowMatches w b = true) : a = b :=
  List.inj_on_of_nodup_map opcodes_nodup ha hb
    ((opField_eq_of_rowMatches ha hwa).symm.trans (opField_eq_of_rowMatches hb hwb))

/-- Settles O4: rows that match one word are one row, because their opcodes differ (`row_eq_of_rowMatches`). -/
theorem patternsDisjoint : Obligations.PatternsDisjoint :=
  fun _ _ _ ha hb hwa hwb => congrArg EncodingRow.pattern (row_eq_of_rowMatches ha hb hwa hwb)

/-! ## The decoder over the rows -/

/-- A word that matches a row is decoded by it (R61). -/
theorem decode_of_rowMatches {w : CmdWord} {r : EncodingRow} (hr : r ∈ encodingRows) (h : rowMatches w r = true) :
    decode w = .ok (r.build w) := by
  unfold decode
  split
  · next r' hfind =>
    rw [row_eq_of_rowMatches (List.mem_of_find?_eq_some hfind) hr (List.find?_some hfind) h]
  · next hnone => exact absurd h (List.find?_eq_none.mp hnone r hr)

/-- A word that matches no row is a reserved encoding, named by its opcode (R64). -/
theorem decode_of_not_rowMatches {w : CmdWord} (h : ∀ r ∈ encodingRows, ¬ rowMatches w r = true) :
    decode w = .error (if legalOpcode (opField w) then .reservedBits else .reservedOpcode) := by
  rw [decode, List.find?_eq_none.mpr h]

/-- The decoder answers with a command exactly when some matching row builds it (R61). -/
theorem decode_eq_ok_iff_rowMatches (w : CmdWord) (i : Instr) :
    decode w = .ok i ↔ ∃ r ∈ encodingRows, rowMatches w r = true ∧ r.build w = i := by
  constructor
  · intro h
    by_cases hw : ∃ r ∈ encodingRows, rowMatches w r = true
    · obtain ⟨r, hr, hm⟩ := hw
      rw [decode_of_rowMatches hr hm] at h
      exact ⟨r, hr, hm, Except.ok.inj h⟩
    · push Not at hw
      rw [decode_of_not_rowMatches hw] at h
      exact nomatch h
  · rintro ⟨r, hr, hm, rfl⟩
    exact decode_of_rowMatches hr hm

/-- The reserved encodings are the words that match no row (R64). -/
theorem exists_decode_eq_error_iff (w : CmdWord) :
    (∃ e, decode w = .error e) ↔ ∀ r ∈ encodingRows, ¬ rowMatches w r = true := by
  constructor
  · rintro ⟨e, he⟩ r hr hm
    rw [decode_of_rowMatches hr hm] at he
    exact nomatch he
  · exact fun h => ⟨_, decode_of_not_rowMatches h⟩

/-- Every row's opcode is legal (R63). -/
theorem legalOpcode_pattern : ∀ r ∈ encodingRows, legalOpcode (opField r.pattern) = true := by decide

/-- The opcodes that are not legal are 0 and 6 to 15 (R63). -/
theorem legalOpcode_eq_false_iff : ∀ op, legalOpcode op = false ↔ op = 0 ∨ 6 ≤ op.toNat := by decide

/-- A word is rejected for its opcode exactly when the opcode is not legal (R64). -/
theorem decode_eq_reservedOpcode_iff (w : CmdWord) :
    decode w = .error .reservedOpcode ↔ legalOpcode (opField w) = false := by
  by_cases hw : ∃ r ∈ encodingRows, rowMatches w r = true
  · obtain ⟨r, hr, hm⟩ := hw
    simp [decode_of_rowMatches hr hm, opField_eq_of_rowMatches hr hm, legalOpcode_pattern r hr]
  · push Not at hw
    simp [decode_of_not_rowMatches hw]

/-! ## Words put together from fields -/

/-- A word is two parts put together exactly when it holds each of them. -/
theorem append_eq_iff {m n : Nat} (a : BitVec m) (b : BitVec n) (w : BitVec (m + n)) :
    a ++ b = w ↔ w.extractLsb' n m = a ∧ w.extractLsb' 0 n = b := by
  constructor
  · rintro rfl
    exact ⟨BitVec.extractLsb'_append_eq_left, BitVec.extractLsb'_append_eq_right⟩
  · rintro ⟨rfl, rfl⟩
    exact BitVec.extractLsb'_append_extractLsb'

/-- A field of the upper part of a word is a field of the word. -/
theorem extractLsb'_extractLsb'_add {l j k : Nat} (w : BitVec (j + k + l)) :
    (w.extractLsb' l (j + k)).extractLsb' k j = w.extractLsb' (k + l) j := by
  ext i hi
  have hlt : k + i < j + k := by omega
  simp [hlt, Nat.add_left_comm, Nat.add_comm]

/-- A word is three parts put together exactly when it holds each of them. -/
theorem append_append_eq_iff {j k l : Nat} (a : BitVec j) (b : BitVec k) (c : BitVec l) (w : BitVec (j + k + l)) :
    a ++ b ++ c = w ↔ w.extractLsb' (k + l) j = a ∧ w.extractLsb' l k = b ∧ w.extractLsb' 0 l = c := by
  have hlow : (w.extractLsb' l (j + k)).extractLsb' 0 k = w.extractLsb' l k := by
    ext i hi
    have hlt : i < j + k := by omega
    simp [hlt]
  rw [append_eq_iff, eq_comm, append_eq_iff, extractLsb'_extractLsb'_add, hlow, and_assoc]

/-- A field of one bit holds a `Bool` exactly when that bit is it. -/
theorem extractLsb'_one_eq_ofBool_iff {n : Nat} (w : BitVec n) (i : Nat) (b : Bool) :
    w.extractLsb' i 1 = BitVec.ofBool b ↔ w.getLsbD i = b := by
  have hbit : w.extractLsb' i 1 = BitVec.ofBool (w.getLsbD i) := by
    ext j hj
    obtain rfl : j = 0 := by omega
    simp
  rw [hbit, BitVec.ofBool_eq_iff_eq]

/-- A mask over the upper part of a word tests that part and ignores the rest. -/
theorem and_mask_eq_iff {m n : Nat} (w : BitVec (m + n)) (p : BitVec m) :
    w &&& (BitVec.allOnes m ++ 0#n) = p ++ 0#n ↔ w.extractLsb' n m = p := by
  rw [eq_comm, append_eq_iff]
  simp [BitVec.extractLsb'_and, BitVec.extractLsb'_append_eq_left, BitVec.extractLsb'_append_eq_right]

/-- The position field as two bits of the word (R62). -/
theorem posField_eq_iff (w : CmdWord) (i : Pos) : posField w = i ↔ w.extractLsb' 4 2 = BitVec.ofFin i := by
  rw [posField, ← BitVec.toFin_inj]

/-! ## The word of each command: its pattern with its operands in place (R61, R62) -/

theorem encode_display_eq_iff (v : Value) (c : Bool) (w : CmdWord) :
    encode (.display v c) = w ↔ w &&& 0xFFFE0000#32 = 0x10000000#32 ∧ valueField w = v ∧ w.getLsbD 16 = c := by
  rw [← extractLsb'_one_eq_ofBool_iff]
  exact (append_append_eq_iff 0x0800#15 (BitVec.ofBool c) v w).trans
    (and_congr (and_mask_eq_iff (m := 15) (n := 17) w 0x0800#15).symm and_comm)

theorem encode_bcd4_eq_iff (v : Value) (w : CmdWord) :
    encode (.bcd4 v) = w ↔ w &&& 0xFFFF0000#32 = 0x20000000#32 ∧ valueField w = v :=
  (append_eq_iff 0x2000#16 v w).trans
    (and_congr_left' (and_mask_eq_iff (m := 16) (n := 16) w 0x2000#16).symm)

theorem encode_setd_eq_iff (i : Pos) (x : Digit) (w : CmdWord) :
    encode (.setd i x) = w ↔ w &&& 0xFFFFFFC0#32 = 0x30000000#32 ∧ posField w = i ∧ digitField w = x := by
  rw [posField_eq_iff]
  exact (append_append_eq_iff 0x0C00000#26 (BitVec.ofFin (w := 2) i) x w).trans
    (and_congr_left' (and_mask_eq_iff (m := 26) (n := 6) w 0x0C00000#26).symm)

theorem encode_enc_eq_iff (c : Bool) (w : CmdWord) :
    encode (.enc c) = w ↔ w &&& 0xFFFFFFFE#32 = 0x40000000#32 ∧ w.getLsbD 0 = c := by
  rw [← extractLsb'_one_eq_ofBool_iff]
  exact (append_eq_iff 0x20000000#31 (BitVec.ofBool c) w).trans
    (and_congr_left' (and_mask_eq_iff (m := 31) (n := 1) w 0x20000000#31).symm)

theorem encode_xmit_eq_iff (w : CmdWord) :
    encode .xmit = w ↔ w &&& 0xFFFFFFFF#32 = 0x50000000#32 := by
  rw [eq_comm]
  exact (Eq.congr_left BitVec.and_allOnes).symm

/-! ## Decoding and encoding -/

/-- The word of a command is the word from which its row builds the command (R61, R62). -/
theorem encode_eq_iff (i : Instr) (w : CmdWord) :
    encode i = w ↔ ∃ r ∈ encodingRows, rowMatches w r = true ∧ r.build w = i := by
  cases i with
  | display v c => simp [encodingRows, rowMatches, encode_display_eq_iff]
  | bcd4 v => simp [encodingRows, rowMatches, encode_bcd4_eq_iff]
  | setd i x => simp [encodingRows, rowMatches, encode_setd_eq_iff]
  | enc c => simp [encodingRows, rowMatches, encode_enc_eq_iff]
  | xmit => simp [encodingRows, rowMatches, encode_xmit_eq_iff]

/-- A word decodes to a command exactly when it is that command's word (R61, R62). -/
theorem decode_eq_ok_iff (w : CmdWord) (i : Instr) : decode w = .ok i ↔ encode i = w :=
  (decode_eq_ok_iff_rowMatches w i).trans (encode_eq_iff i w).symm

/-- Settles O1: the word of a command is that command's word, so it decodes to it (`decode_eq_ok_iff`). -/
theorem decodeOfEncode : Obligations.DecodeOfEncode := fun i _ => (decode_eq_ok_iff _ i).mpr rfl

/-- Settles O2: a word that decodes to a command is that command's word (`decode_eq_ok_iff`). -/
theorem encodeOfDecode : Obligations.EncodeOfDecode := fun w i => (decode_eq_ok_iff w i).mp

end Sys2Proof

namespace Sys2Proof.Machine

/-! ## The written form of a command -/

/-- Operands in range are the operands of the command that is assembled (R62, R68). -/
theorem toSource_instrOfSource {c : Source} (h : c.wellFormed = true) : (instrOfSource c).toSource = c := by
  have bit {n : Nat} (hn : n < 2) : (n == 1).toNat = n := by interval_cases n <;> rfl
  cases c with
  | display v c =>
    obtain ⟨hv, hc⟩ : v < 65536 ∧ c < 2 := by simpa [Source.wellFormed] using h
    simp [instrOfSource, Instr.toSource, bit hc, Nat.mod_eq_of_lt hv]
  | bcd4 v =>
    have hv : v < 65536 := by simpa [Source.wellFormed] using h
    simp [instrOfSource, Instr.toSource, Nat.mod_eq_of_lt hv]
  | setd i x =>
    obtain ⟨hi, hx⟩ : i < 4 ∧ x < 16 := by simpa [Source.wellFormed] using h
    simp [instrOfSource, Instr.toSource, Nat.mod_eq_of_lt hi, Nat.mod_eq_of_lt hx]
  | enc c =>
    have hc : c < 2 := by simpa [Source.wellFormed] using h
    simp [instrOfSource, Instr.toSource, bit hc]
  | xmit => rfl

/-- Settles O6: the range check decides, and in range `toSource_instrOfSource` gives the operands back. -/
theorem outOfRangeOperandIsAssemblerError : Obligations.OutOfRangeOperandIsAssemblerError := by
  intro c
  constructor
  · exact fun h => ⟨instrOfSource c, by rw [assembleSource, if_pos h], toSource_instrOfSource h⟩
  · exact fun h => by simp [assembleSource, h]

/-! ## The answer to a reserved encoding -/

/-- An idle block that responds with data 0 only records the response. -/
theorem respond_zero_of_idle {s : State} (h : s.Idle) (st : Status) : respond st 0 s = answered st s := by
  rw [respond, answered, ← (h : s.inFlight = none)]

/-- A ready block answers a reserved encoding `INVALID_ARG` and changes nothing else (R64). -/
theorem present_reserved {w : CmdWord} {e : DecodeError} (hw : decode w = .error e) {s : State} (h : s.Ready) :
    present w s = .next (answered .invalidArg s) := by
  rw [present, hw]
  exact (accept_ready _ h).trans (congrArg Host.Outcome.next (respond_zero_of_idle h.1 .invalidArg))

/-- Settles O3: no row matches (`exists_decode_eq_error_iff`), the opcode is not legal (`decode_eq_reservedOpcode_iff`),
and the answer is that of `present_reserved`. -/
theorem reservedEncodings : Obligations.ReservedEncodings := by
  intro w
  refine ⟨?_, ?_, ?_⟩
  · rw [exists_decode_eq_error_iff]
    simp [encodingRows, rowMatches]
  · exact (decode_eq_reservedOpcode_iff w).trans (legalOpcode_eq_false_iff _)
  · rintro s rest hr hin ⟨e, he⟩
    simp only [step, hin]
    exact present_reserved he hr

/-! ## One response, or none -/

/-- From `s` to `t` nothing was answered, and a command waits for its emission to be (R71). -/
def WaitsUnanswered (s t : State) : Prop := ∃ k, t.inFlight = some k ∧ t.responses = s.responses

/-- From `s` to `t` the response `r` and no other was given, and no command is running (R70). -/
def EndsWith (r : Response) (s t : State) : Prop := t.inFlight = none ∧ t.responses = s.responses ++ [r]

theorem endsWith_respond (st : Status) (x : RespData) (s : State) : EndsWith ⟨st, x⟩ s (respond st x s) := ⟨rfl, rfl⟩

/-- An exception ends its command with data 0 (R70). -/
theorem endsWith_raise (e : Exception) (s : State) : ∃ st, EndsWith ⟨st, 0⟩ s (raise e s) := by
  cases e <;> exact ⟨_, rfl, rfl⟩

/-- An emit stage waits, or ends with data 0 (R52, R101). -/
theorem emitFrom_waits_or_ends (l : List Pos) (s : State) :
    WaitsUnanswered s (emitFrom l s) ∨ ∃ st, EndsWith ⟨st, 0⟩ s (emitFrom l s) := by
  induction l generalizing s with
  | nil => exact .inr ⟨.ok, endsWith_respond .ok 0 s⟩
  | cons i rest ih =>
    obtain ⟨r, -, e⟩ | ⟨r, -, e⟩ | ⟨-, e⟩ := emitFrom_cons i rest s <;> rw [e]
    · exact ih _
    · exact .inr (endsWith_raise .transportFault _)
    · exact .inl ⟨i, rfl, rfl⟩

/-- The commands whose response carries data: `BCD4` and `ENC` (R70). -/
def CarriesData (i : Instr) : Prop := (∃ v, i = .bcd4 v) ∨ ∃ c, i = .enc c

/-- A command waits, or ends with data 0, or carries data with status `OK` (R70, R71). -/
theorem commandBody_waits_or_ends (i : Instr) (s : State) :
    WaitsUnanswered s (commandBody i s) ∨ (∃ st, EndsWith ⟨st, 0⟩ s (commandBody i s)) ∨
    (CarriesData i ∧ ∃ x, EndsWith ⟨.ok, x⟩ s (commandBody i s)) := by
  cases i with
  | display v c =>
    have hframe : (prepare seg v c s).responses = s.responses := by rw [prepare_eq_prepared]; rfl
    have h := emitFrom_waits_or_ends positions (prepare seg v c s)
    simp only [WaitsUnanswered, EndsWith, hframe] at h
    exact h.imp_right .inl
  | bcd4 v =>
    refine .inr (.inr ⟨.inl ⟨v, rfl⟩, packDigits (decompose v s).d, rfl, ?_⟩)
    simp [commandBody, bcd4Body, decompose_eq]
  | setd i x => exact .inr (.inl ⟨.ok, rfl, rfl⟩)
  | enc c =>
    simp only [commandBody, encBody]
    split
    · refine .inr (.inr ⟨.inr ⟨c, rfl⟩, packPatterns (encodeLanes seg c positions s).p, rfl, ?_⟩)
      simp [encodeLanes_eq]
    · exact .inr (.inl (endsWith_raise .invalidArg s))
  | xmit =>
    simp only [commandBody, xmitBody]
    split
    · exact (emitFrom_waits_or_ends positions s).imp_right .inl
    · exact .inr (.inl (endsWith_raise .invalidArg s))

/-- A presented word comes to what its command comes to, or to an exception's response (R64, R70, R123). -/
theorem present_waits_or_ends {w : CmdWord} {s t : State} (h : present w s = .next t) :
    WaitsUnanswered s t ∨ (∃ st, EndsWith ⟨st, 0⟩ s t) ∨
    ∃ i, decode w = .ok i ∧ CarriesData i ∧ ∃ x, EndsWith ⟨.ok, x⟩ s t := by
  obtain ⟨-, i, hw, rfl⟩ | ⟨-, -, rfl⟩ | ⟨-, -, rfl⟩ := present_next h
  · exact (commandBody_waits_or_ends i s).imp_right (.imp_right fun hx => ⟨i, hw, hx⟩)
  · exact .inr (.inl (endsWith_raise _ s))
  · exact .inr (.inl (endsWith_raise _ s))

/-- Settles O9: the cases of `present_waits_or_ends`; data stands only in a response of `BCD4` or `ENC` with `OK`. -/
theorem oneResponsePerWord : Obligations.OneResponsePerWord := by
  intro s t w rest hin h
  simp only [step, hin] at h
  obtain hwait | ⟨st, hidle, hresp⟩ | ⟨i, hw, hi, x, hidle, hresp⟩ := present_waits_or_ends h
  · exact .inl hwait
  · exact .inr ⟨hidle, ⟨st, 0⟩, hresp, fun _ => rfl, fun _ _ => rfl⟩
  · refine .inr ⟨hidle, ⟨.ok, x⟩, hresp, fun hne => absurd rfl hne, fun hbcd henc => ?_⟩
    obtain ⟨v, rfl⟩ | ⟨c, rfl⟩ := hi
    · exact absurd hw (hbcd v)
    · exact absurd hw (henc c)

/-! ## Example words and status codes -/

/-- Settles O5, by evaluation of the decoder. -/
theorem exampleWordsDecode : Obligations.ExampleWordsDecode := ⟨rfl, rfl, rfl, rfl, rfl, rfl, rfl, rfl⟩

/-- Settles O10, by evaluation of `statusCode`. -/
theorem statusCodes : Obligations.StatusCodes := ⟨rfl, rfl, rfl, rfl⟩

end Sys2Proof.Machine

/-! PROOFS. The BCD decomposition unit: what `BCD4` and `SETD` do and leave unchanged (O14, O15, O25), what the digits
say of the value (O45, O46), and four `SETD` in any order (O53). -/

namespace Sys2Proof.Machine

/-! ## `BCD4` and `SETD` in an idle block -/

/-- An idle block that responds only records the response. -/
theorem respond_of_idle {s : State} (h : s.Idle) (st : Status) (x : RespData) :
    respond st x s = { s with responses := s.responses ++ [⟨st, x⟩] } := by
  rw [respond, ← (h : s.inFlight = none)]

/-- `BCD4` leaves the closed form of R80 in the digits and in its response. -/
theorem bcd4Body_of_idle (v : Value) {s : State} (h : s.Idle) :
    bcd4Body v s =
      { s with
        d := digitsOf v
        dv := allSet
        responses := s.responses ++ [⟨.ok, packDigits (digitsOf v)⟩] } := by
  simp only [bcd4Body, decompose_eq_digitsOf]
  exact respond_of_idle (s := { s with d := digitsOf v, dv := allSet }) h _ _

/-- `SETD` writes its digit and answers (`OK`, 0) (R81). -/
theorem setdBody_of_idle (i : Pos) (x : Digit) {s : State} (h : s.Idle) :
    setdBody i x s = answered .ok (writeDigit i x s) :=
  respond_zero_of_idle (s := writeDigit i x s) h .ok

theorem exec_bcd4_ready (v : Value) {s : State} (h : s.Ready) :
    exec (.bcd4 v) s = .next { s with
      d := digitsOf v
      dv := allSet
      responses := s.responses ++ [⟨.ok, packDigits (digitsOf v)⟩] } := by
  rw [exec_ready _ h, commandBody, bcd4Body_of_idle v h.1]

theorem exec_setd_ready (i : Pos) (x : Digit) {s : State} (h : s.Ready) :
    exec (.setd i x) s = .next (answered .ok (writeDigit i x s)) := by
  rw [exec_ready _ h, commandBody, setdBody_of_idle i x h.1]

/-- The word of `BCD4` is its opcode with the value below it (R80). -/
theorem encode_bcd4_eq_or (v : Value) : encode (.bcd4 v) = 0x20000000 ||| v.setWidth 32 :=
  (BitVec.setWidth_eq _).symm.trans (BitVec.setWidth_append_eq_shiftLeft_setWidth_or (b := 0x2000#16))

/-- The word of `SETD` is its opcode with the position and the digit below it (R81). -/
theorem encode_setd_eq_or (i : Pos) (x : Digit) :
    encode (.setd i x) = 0x30000000 ||| (BitVec.ofNat 32 i.val <<< 4) ||| x.setWidth 32 := by
  have hpos : (BitVec.ofFin (w := 2) i).setWidth 32 = BitVec.ofNat 32 i.val := by
    apply BitVec.eq_of_toNat_eq
    simp
  rw [← hpos]
  exact (BitVec.setWidth_eq _).symm.trans
    (BitVec.setWidth_append_append_eq_shiftLeft_setWidth_or (b := 0x0C00000#26) (b' := BitVec.ofFin (w := 2) i))

/-- Settles O14: the word by `encode_bcd4_eq_or`, the next state by `exec_bcd4_ready`. -/
theorem bcd4Result : Obligations.Bcd4Result :=
  fun v _ => ⟨encode_bcd4_eq_or v, exec_bcd4_ready v⟩

/-- Settles O15: the word by `encode_setd_eq_or`, the next state by `exec_setd_ready`. -/
theorem setdResult : Obligations.SetdResult :=
  fun i x _ => ⟨encode_setd_eq_or i x, exec_setd_ready i x⟩

/-! ## What the digit commands leave unchanged -/

/-- A digit write leaves the other positions and their flags alone (R81). -/
theorem writeDigit_get_of_ne {i j : Pos} (h : j ≠ i) (x : Digit) (s : State) :
    (writeDigit i x s).d[j] = s.d[j] ∧ (writeDigit i x s).dv[j] = s.dv[j] := by
  have hval : i.val ≠ j.val := (Fin.val_ne_of_ne h).symm
  simp [hval]

/-- Settles O25: the closed forms of the two commands name what they change, and a halted block only responds. -/
theorem digitCommandsFrame : Obligations.DigitCommandsFrame := by
  intro i s t hi h
  obtain ⟨hr, rfl⟩ | ⟨hidle, -, rfl⟩ := exec_next h
  · obtain ⟨v, rfl⟩ | ⟨k, x, rfl⟩ := hi
    · rw [commandBody, bcd4Body_of_idle v hr.1]
      exact ⟨rfl, rfl, rfl, rfl, rfl, rfl, rfl, fun _ _ hset => nomatch hset⟩
    · rw [commandBody, setdBody_of_idle k x hr.1]
      refine ⟨rfl, rfl, rfl, rfl, rfl, rfl, rfl, fun _ _ hset j hj => ?_⟩
      cases hset
      exact writeDigit_get_of_ne hj x s
  · exact ⟨rfl, rfl, rfl, hidle.symm, rfl, rfl, rfl, fun _ _ _ _ _ => ⟨rfl, rfl⟩⟩

/-! ## The digits of a value as numbers -/

/-- Position `i` holds the decimal digit of weight `10 ^ (3 - i)` (R80). -/
theorem toNat_digitsOf (v : Value) (i : Pos) : ((digitsOf v)[i]).toNat = v.toNat / 10 ^ (3 - i.val) % 10 := by
  have hdigit (n : Nat) : n % 10 % 16 = n % 10 := by omega
  fin_cases i <;> simp [digitsOf, hdigit]

/-- The four digits one by one, thousands first (R80). -/
theorem toNat_digitsOf_each (v : Value) :
    (digitsOf v)[0].toNat = v.toNat / 1000 % 10 ∧ (digitsOf v)[1].toNat = v.toNat / 100 % 10 ∧
    (digitsOf v)[2].toNat = v.toNat / 10 % 10 ∧ (digitsOf v)[3].toNat = v.toNat % 10 :=
  ⟨toNat_digitsOf v 0, toNat_digitsOf v 1, toNat_digitsOf v 2, Nat.div_one v.toNat ▸ toNat_digitsOf v 3⟩

/-- Every digit is decimal (R82). -/
theorem toNat_digitsOf_le (v : Value) (i : Pos) : ((digitsOf v)[i]).toNat ≤ 9 := by
  rw [toNat_digitsOf]
  omega

/-- The four digits make up the value modulo 10000 (R82). -/
theorem decimalOf_digitsOf (v : Value) : decimalOf (digitsOf v) = v.toNat % 10000 := by
  obtain ⟨h0, h1, h2, h3⟩ := toNat_digitsOf_each v
  rw [decimalOf, h0, h1, h2, h3]
  omega

/-- The digits depend on the value modulo 10000 only (R82). -/
theorem digitsOf_mod (v : Value) : digitsOf (v % 10000) = digitsOf v := by
  ext1 i hi
  apply BitVec.eq_of_toNat_eq
  refine (toNat_digitsOf _ ⟨i, hi⟩).trans (Eq.trans ?_ (toNat_digitsOf v ⟨i, hi⟩).symm)
  simp only [BitVec.toNat_umod, BitVec.reduceToNat]
  interval_cases i <;> omega

/-- Settles O45: the loop leaves `digitsOf v`, whose digits make up the value and ignore its multiples of 10000. -/
theorem digitsReconstructTheValue : Obligations.DigitsReconstructTheValue := by
  intro v s
  have hwrap : bcd4Body v = bcd4Body (v % 10000) := by
    funext u
    simp only [bcd4Body, decompose_eq_digitsOf, digitsOf_mod]
  rw [decompose_eq_digitsOf]
  refine ⟨decimalOf_digitsOf v, toNat_digitsOf_le v, ?_⟩
  rw [exec_eq_accept, exec_eq_accept, commandBody, commandBody, hwrap]

/-! ## The packed response -/

/-- Two parts put together, as numbers. -/
theorem toNat_append_eq_add {m n : Nat} (x : BitVec m) (y : BitVec n) :
    (x ++ y).toNat = 2 ^ n * x.toNat + y.toNat := by
  rw [BitVec.toNat_append, ← Nat.shiftLeft_add_eq_or_of_lt y.isLt, Nat.shiftLeft_eq, Nat.mul_comm]

/-- The packed digits are the hexadecimal digits of the response data (R70). -/
theorem toNat_packDigits (d : Vector Digit 4) :
    (packDigits d).toNat = 16 ^ 3 * d[0].toNat + 16 ^ 2 * d[1].toNat + 16 * d[2].toNat + d[3].toNat := by
  simp only [packDigits, toNat_append_eq_add, BitVec.toNat_ofNat]
  omega

/-- Settles O46: the data is `packDigits (digitsOf v)`, read by `toNat_packDigits` and `toNat_digitsOf_each`. -/
theorem packedDecimalResponse : Obligations.PackedDecimalResponse := by
  intro v s t hr h
  rw [exec_bcd4_ready v hr] at h
  cases h
  obtain ⟨h0, h1, h2, h3⟩ := toNat_digitsOf_each v
  refine ⟨⟨.ok, packDigits (digitsOf v)⟩, rfl, rfl, (toNat_packDigits _).trans ?_⟩
  rw [h0, h1, h2, h3]

/-! ## Several `SETD` one after the other -/

/-- `D[i]` holds the digit `x` and is valid. -/
def DigitLoaded (i : Pos) (x : Digit) (s : State) : Prop := s.d[i] = x ∧ s.dv[i] = true

theorem digitLoaded_writeDigit (i : Pos) (x : Digit) (s : State) : DigitLoaded i x (writeDigit i x s) := by
  simp [DigitLoaded]

/-- A digit write at another position leaves a loaded digit loaded (R81). -/
theorem DigitLoaded.after_writeDigit {i j : Pos} {y : Digit} {s : State} (hs : DigitLoaded j y s) (h : j ≠ i)
    (x : Digit) : DigitLoaded j y (writeDigit i x s) := by
  obtain ⟨hd, hdv⟩ := writeDigit_get_of_ne h x s
  exact ⟨hd.trans hs.1, hdv.trans hs.2⟩

/-- `SETD` at each position of a list loads those positions, whatever the order, and keeps what was loaded (R81). -/
theorem execAll_setds (x : Pos → Digit) (l : List Pos) {s : State} (hr : s.Ready) :
    ∃ t, execAll (l.map fun i => Instr.setd i (x i)) s = some t ∧ t.Ready ∧
      ∀ j, j ∈ l ∨ DigitLoaded j (x j) s → DigitLoaded j (x j) t := by
  induction l generalizing s with
  | nil => exact ⟨s, rfl, hr, by simp⟩
  | cons i l ih =>
    obtain ⟨t, ht, htr, hloaded⟩ := ih (s := answered .ok (writeDigit i (x i) s)) hr
    refine ⟨t, ?_, htr, fun j hj => hloaded j ?_⟩
    · rw [List.map_cons, execAll, exec_setd_ready i (x i) hr]
      exact ht
    · by_cases hji : j = i
      · subst hji
        exact .inr (digitLoaded_writeDigit j (x j) s)
      · exact hj.imp (List.mem_of_ne_of_mem hji) fun hs => hs.after_writeDigit hji (x i)

/-- Settles O53: a permutation of the four positions holds each of them, so `execAll_setds` loads them all. -/
theorem fourSetdsInAnyOrder : Obligations.FourSetdsInAnyOrder := by
  intro l x s hl hr
  obtain ⟨t, ht, htr, hloaded⟩ := execAll_setds x l hr
  have hall : ∀ i : Pos, i ∈ positions := by decide
  exact ⟨t, ht, htr, fun i => hloaded i (.inl (hl.mem_iff.mpr (hall i)))⟩

end Sys2Proof.Machine

/-! PROOFS. The Segment Encoder: what `ENC` does and leaves unchanged (O16, O26), the encoder function (O42), its lanes
(O43), and what its patterns say of the digits (O44). -/

namespace Sys2Proof.Machine

/-! ## `ENC` in an idle block -/

/-- The guard of `ENC` passes exactly when every digit is valid (R90). -/
theorem allValid_eq_true_iff (v : Vector Bool 4) : allValid v = true ↔ ∀ i : Pos, v[i] = true := by
  rw [← Bool.not_eq_false, allValid_eq_false_iff]
  simp

/-- With all digits valid `ENC` leaves the patterns of R90 spelt out, in `P` and in its response. -/
theorem encBody_of_valid (t : SegTable) (c : Bool) {s : State} (h : s.Idle) (hv : allValid s.dv = true) :
    encBody t c s =
      { s with
        p := patternsOf t s.d c
        pv := allSet
        responses := s.responses ++ [⟨.ok, packPatterns (patternsOf t s.d c)⟩] } := by
  simp only [encBody, hv, if_true, encodeLanes_eq_patternsOf]
  exact respond_of_idle (s := { s with p := patternsOf t s.d c, pv := allSet }) h _ _

/-- With a digit that is not valid `ENC` only answers `INVALID_ARG` (R90). -/
theorem encBody_of_invalid (t : SegTable) (c : Bool) {s : State} (h : s.Idle) (hv : allValid s.dv = false) :
    encBody t c s = answered .invalidArg s := by
  rw [encBody, hv]
  exact respond_zero_of_idle h .invalidArg

theorem exec_enc_valid (c : Bool) {s : State} (h : s.Ready) (hv : ∀ i : Pos, s.dv[i] = true) :
    exec (.enc c) s = .next { s with
      p := patternsOf seg s.d c
      pv := allSet
      responses := s.responses ++ [⟨.ok, packPatterns (patternsOf seg s.d c)⟩] } := by
  rw [exec_ready _ h, commandBody, encBody_of_valid seg c h.1 ((allValid_eq_true_iff _).mpr hv)]

theorem exec_enc_invalid (c : Bool) {s : State} (h : s.Ready) (hv : ∃ i : Pos, s.dv[i] = false) :
    exec (.enc c) s = .next (answered .invalidArg s) := by
  rw [exec_ready _ h, commandBody, encBody_of_invalid seg c h.1 ((allValid_eq_false_iff _).mpr hv)]

/-- The word of `ENC` is its opcode with the colon operand below it (R90). -/
theorem encode_enc_eq_or (c : Bool) : encode (.enc c) = 0x40000000 ||| (BitVec.ofBool c).setWidth 32 :=
  (BitVec.setWidth_eq _).symm.trans (BitVec.setWidth_append_eq_shiftLeft_setWidth_or (b := 0x20000000#31))

/-- Settles O16: the word by `encode_enc_eq_or`, the next state by `exec_enc_valid` and `exec_enc_invalid`. -/
theorem encResult : Obligations.EncResult :=
  fun c _ => ⟨encode_enc_eq_or c, exec_enc_valid c, exec_enc_invalid c⟩

/-- Settles O26: the two closed forms of `ENC` name what they change, and a halted block only responds. -/
theorem encFrame : Obligations.EncFrame := by
  intro c s t h
  obtain ⟨⟨hidle, -⟩, rfl⟩ | ⟨hidle, -, rfl⟩ := exec_next h
  · rw [commandBody]
    cases hv : allValid s.dv with
    | true =>
      rw [encBody_of_valid seg c hidle hv]
      exact ⟨rfl, rfl, rfl, rfl, rfl, rfl, rfl⟩
    | false =>
      rw [encBody_of_invalid seg c hidle hv]
      exact ⟨rfl, rfl, rfl, rfl, rfl, rfl, rfl⟩
  · exact ⟨rfl, rfl, rfl, hidle.symm, rfl, rfl, rfl⟩

/-! ## The encoder function -/

/-- Without the colon the encoder is the table read (R91). -/
@[simp] theorem seg7_false (t : SegTable) (d : Digit) : seg7 t d false = t.read d := BitVec.or_zero

/-- The colon is OR-ed into the pattern without it (R91). -/
theorem seg7_true (t : SegTable) (d : Digit) : seg7 t d true = t.read d ||| 0x80 := rfl

/-- Every entry of an admissible table, at every 4-bit index, has bit 7 clear (R28b). -/
theorem read_getLsbD_seven {t : SegTable} (ht : t.Admissible) (d : Digit) : (t.read d).getLsbD 7 = false := by
  obtain ⟨-, -, -, -, hbit⟩ := ht
  simpa using hbit d.toFin

/-- Over an admissible table bit 7 of the encoder is the colon request (R91). -/
theorem seg7_getLsbD_seven {t : SegTable} (ht : t.Admissible) (d : Digit) (c : Bool) :
    (seg7 t d c).getLsbD 7 = c := by
  cases c with
  | false => rw [seg7_false, read_getLsbD_seven ht]
  | true => rw [seg7_true, BitVec.getLsbD_or, read_getLsbD_seven ht]; rfl

/-- Where bit 7 is clear, OR-ing the colon bit in adds it: no carry arises. -/
theorem or_colonBit_eq_add {b : Pattern} (h : b.getLsbD 7 = false) : b ||| 0x80 = b + 0x80 := by
  have hand : b &&& BitVec.twoPow 8 7 = 0#8 := by rw [BitVec.and_twoPow, h]; rfl
  exact (BitVec.add_eq_or_of_and_eq_zero b _ hand).symm

/-- Settles O42: the laws by bit 7 of the table's entries, the default table by evaluation of its 32 values. -/
theorem segmentEncoderFunction : Obligations.SegmentEncoderFunction := by
  refine ⟨fun t ht d => ⟨seg7_false t d, seg7_true t d, ?_, ?_, ?_⟩, by decide, by decide⟩
  · exact seg7_getLsbD_seven ht d false
  · exact seg7_getLsbD_seven ht d true
  · rw [seg7_true, seg7_false]
    exact or_colonBit_eq_add (read_getLsbD_seven ht d)

/-! ## The lanes -/

/-- Lane `i` holds the pattern of its own digit, with the colon bit at position 1 only (R90, R92). -/
theorem patternsOf_get (t : SegTable) (d : Vector Digit 4) (c : Bool) (i : Pos) :
    (patternsOf t d c)[i] = seg7 t d[i] (i == colonPos && c) := by
  fin_cases i <;> simp [patternsOf, seg7, colonBit, colonPos]

/-- Settles O43: by `patternsOf_get` a lane depends on its digit, and on the colon operand at position 1 only. -/
theorem encoderLanesIndependent : Obligations.EncoderLanesIndependent := by
  intro c c' s t s' t' i hs ht hsv htv hs' ht' hd hc
  rw [exec_enc_valid c hs hsv] at hs'
  rw [exec_enc_valid c' ht htv] at ht'
  cases hs'
  cases ht'
  have hcolon : (i == colonPos && c) = (i == colonPos && c') := by
    by_cases hi : i = 1
    · rw [hc hi]
    · rw [colonPos, beq_false_of_ne hi, Bool.false_and, Bool.false_and]
  simp only [patternsOf_get, hd, hcolon]

/-! ## Reading the patterns back -/

/-- The configured table is the default one, which is admissible (R29). -/
theorem seg_admissible : seg.Admissible := defaultTableAdmissible.1

/-- The patterns of a value's digits read back as the value modulo 10000, with or without the colon (R93a). -/
theorem decimalShown_patternsOf (v : Value) (c : Bool) :
    decimalShown seg (patternsOf seg (digitsOf v) c) = some (v.toNat % 10000) := by
  have h := anyAdmissibleTableReadsBack seg v c State.reset seg_admissible
  rwa [prepare_eq_prepared] at h

/-- R93a: `BCD4` makes every digit valid, so `ENC` encodes the digits of the value. -/
theorem bcd4_enc_shows {v : Value} (hv : v.toNat ≤ 9999) {s : State} (hs : s.Ready) :
    ∃ t u, exec (.bcd4 v) s = .next t ∧ exec (.enc false) t = .next u ∧ decimalShown seg u.p = some v.toNat := by
  refine ⟨_, _, exec_bcd4_ready v hs, exec_enc_valid false hs fun i => allSet_get i i.isLt, ?_⟩
  rw [decimalShown_patternsOf, Nat.mod_eq_of_lt (Nat.lt_succ_of_le hv)]

/-- R93b: the colon operand sets bit 7 of the second pattern and nothing else. -/
theorem enc_colon_sets_bit {s : State} (hs : s.Ready) (hv : ∀ j : Pos, s.dv[j] = true) :
    ∃ t u, exec (.enc false) s = .next t ∧ exec (.enc true) s = .next u ∧
      u.p[0] = t.p[0] ∧ u.p[2] = t.p[2] ∧ u.p[3] = t.p[3] ∧ u.p[1] = t.p[1] ||| 0x80 ∧
      (u.p[1]).getLsbD 7 = true ∧ (t.p[1]).getLsbD 7 = false := by
  have hlane (c : Bool) : (patternsOf seg s.d c)[1] = seg7 seg s.d[1] c := patternsOf_get seg s.d c 1
  refine ⟨_, _, exec_enc_valid false hs hv, exec_enc_valid true hs hv, rfl, rfl, rfl, ?_, ?_, ?_⟩
  · rw [hlane, hlane, seg7_true, seg7_false]
  · rw [hlane, seg7_getLsbD_seven seg_admissible]
  · rw [hlane, seg7_getLsbD_seven seg_admissible]

/-- Settles O44: the value by `bcd4_enc_shows`, the colon by `enc_colon_sets_bit`, the round trip by
`defaultTableAdmissible`. -/
theorem encoderProperties : Obligations.EncoderProperties :=
  ⟨fun _ _ hv => bcd4_enc_shows hv, fun _ => enc_colon_sets_bit, fun n => (defaultTableAdmissible.2 n).1⟩

end Sys2Proof.Machine

/-! PROOFS. The Transmit Sequencer: the emit stage by its answers (O19), `XMIT` and its frame (O17, O27), a command
that waited (O21), and the shape of what an emit stage adds to `OUT` (O23). -/

namespace Sys2Proof.Machine

/-! ## How an emit stage ends -/

/-- A `FAIL` ends the emit stage at its position: the entry, `FAULT` and the response (R101, R122). -/
theorem emitFrom_positionsFrom_of_fail (k : Pos) {s : State} {env : List Input}
    (hin : s.inputs = .answer .fail :: env) :
    emitFrom (positionsFrom k) s = answered .transportFault
      { s with inputs := env, inFlight := none, fault := true, out := s.out ++ [entryAt s.p .fail k] } := by
  obtain ⟨rest, hk⟩ := List.head?_eq_some_iff.mp (positionsFrom_chain k).2
  rw [hk, emitFrom, emit_answered hin]
  rfl

/-- The emit stage of a command ends after four answers `OK`, or at the first `FAIL` (R101). -/
theorem emitAll_ends (s : State) : EmitStageEnds s (.next (emitAll s)) := by
  refine ⟨fun env hin => ?_, fun k env hin => ?_⟩
  · rw [emitAll_of_answersOk le_rfl hin]
    rfl
  · rw [emitAll_of_answersOk k.isLt.le hin]
    exact congrArg Host.Outcome.next (emitFrom_positionsFrom_of_fail k rfl)

/-- Settles O19: the answers that end an emit stage by `emitAll_ends`, those that stop too early by `emitAll_waits`. -/
theorem emitStageByAnswers : Obligations.EmitStageByAnswers := fun s => ⟨emitAll_ends s, emitAll_waits s⟩

/-! ## `XMIT` -/

/-- With a pattern that is not valid `XMIT` only answers `INVALID_ARG` (R100). -/
theorem exec_xmit_invalid {s : State} (h : s.Ready) (hpv : ∃ i : Pos, s.pv[i] = false) :
    exec .xmit s = .next (answered .invalidArg s) := by
  rw [exec_ready .xmit h, commandBody, xmitBody, (allValid_eq_false_iff _).mpr hpv]
  exact congrArg Host.Outcome.next (respond_zero_of_idle h.1 .invalidArg)

/-- Settles O17: with all patterns valid `XMIT` is the emit stage, which ends as `emitAll_ends` says. -/
theorem xmitResult : Obligations.XmitResult := by
  refine ⟨rfl, fun s hr => ⟨fun hpv => ?_, exec_xmit_invalid hr⟩⟩
  rw [exec_xmit_eq_emitAll hr hpv]
  exact emitAll_ends s

/-- Settles O27: the frame of the emit stage (`emitFrom_frame`, `emitFrom_out`); a refused or halted `XMIT` only
responds. -/
theorem xmitFrame : Obligations.XmitFrame := by
  intro s t h
  obtain ⟨-, rfl⟩ | ⟨-, -, rfl⟩ := exec_next h
  · rw [commandBody, xmitBody]
    split
    · obtain ⟨hd, hdv, hp, hpv, hresets⟩ := emitFrom_frame positions s
      exact ⟨hd, hdv, hp, hpv, hresets, emitFrom_out positions s⟩
    · exact ⟨rfl, rfl, rfl, rfl, rfl, [], (List.append_nil _).symm⟩
  · exact ⟨rfl, rfl, rfl, rfl, rfl, [], (List.append_nil _).symm⟩

/-! ## A command that waits -/

/-- A command that emits is an emit stage over registers that do not depend on the inputs, with nothing answered
before it (R100, R110). -/
theorem exec_eq_emitAll_of_emits {i : Instr} {s : State} (hr : s.Ready)
    (hi : i = .xmit ∧ (∀ j : Pos, s.pv[j] = true) ∨ ∃ v c, i = .display v c) :
    ∃ u : State, u.responses = s.responses ∧
      ∀ env, exec i { s with inputs := env } = .next (emitAll { u with inputs := env }) := by
  obtain ⟨rfl, hpv⟩ | ⟨v, c, rfl⟩ := hi
  · exact ⟨s, rfl, fun env => exec_xmit_eq_emitAll (s := { s with inputs := env }) hr hpv⟩
  · exact ⟨prepared v c s, rfl, fun env => exec_display_eq_emitAll v c (s := { s with inputs := env }) hr⟩

/-- The emit stage goes on from the position it waited at as if its answers had all been there (D22). -/
theorem answerArrives_of_waiting (u : State) (k : Pos) (env : List Input) :
    answerArrives { u with inputs := env, inFlight := some k, out := u.out ++ sentOk u.p k.val } =
      emitAll { u with inputs := answersOk k.val ++ env } := by
  rw [emitAll_of_answersOk k.isLt.le rfl, answerArrives_running rfl]
  exact emitFrom_inFlight (positionsFrom k) { u with inputs := env, out := u.out ++ sentOk u.p k.val } (some k)

/-- Settles O21: the command is an emit stage that waits at `k` (`emitAll_waits`) and goes on from there
(`answerArrives_of_waiting`). -/
theorem waitingDoesNotChangeTheResult : Obligations.WaitingDoesNotChangeTheResult := by
  intro i s k a env hr hi
  obtain ⟨u, hresp, hexec⟩ := exec_eq_emitAll_of_emits hr hi
  have hwaits : Host.Outcome.next (emitAll { u with inputs := answersOk k.val }) = _ :=
    emitAll_waits { u with inputs := answersOk k.val } k [] (List.append_nil _).symm (fun _ _ h => nomatch h)
  refine ⟨_, (hexec _).trans hwaits, rfl, hresp, ?_⟩
  rw [hexec, ← answerArrives_of_waiting]
  rfl

/-! ## The shape of what an emit stage adds -/

/-- The inputs begin with `n` answers `OK`, or with fewer answers `OK` followed by a `FAIL` or by no answer. -/
theorem answers_cases (n : Nat) (env : List Input) :
    (∃ rest, env = answersOk n ++ rest) ∨
    (∃ k < n, ∃ rest, env = answersOk k ++ .answer .fail :: rest) ∨
    (∃ k < n, ∃ rest, env = answersOk k ++ rest ∧ NoAnswerNext rest) := by
  induction n generalizing env with
  | zero => exact .inl ⟨env, rfl⟩
  | succ n ih =>
    by_cases hno : NoAnswerNext env
    · exact .inr (.inr ⟨0, n.succ_pos, env, rfl, hno⟩)
    simp only [NoAnswerNext, not_forall, not_not] at hno
    obtain ⟨a, env, rfl⟩ := hno
    cases a with
    | fail => exact .inr (.inl ⟨0, n.succ_pos, env, rfl⟩)
    | ok =>
      obtain ⟨rest, rfl⟩ | ⟨k, hk, rest, rfl⟩ | ⟨k, hk, rest, rfl, hno⟩ := ih env
      · exact .inl ⟨rest, rfl⟩
      · exact .inr (.inl ⟨k + 1, Nat.succ_lt_succ hk, rest, rfl⟩)
      · exact .inr (.inr ⟨k + 1, Nat.succ_lt_succ hk, rest, rfl, hno⟩)

/-- The entries of an emit stage whose last answer, for position `k`, is `a`. -/
def entriesUpTo (p : Vector Pattern 4) (k : Pos) (a : Ack) : List OutEntry := sentOk p k.val ++ [entryAt p a k]

/-- The status with which an emit stage responds to its last answer (R101). -/
def statusOfLast : Ack → Status
  | .ok => .ok
  | .fail => .transportFault

/-- An emit stage that ends had a last answer: `FAIL` at some position, or `OK` at position 3 (R101). -/
theorem emitAll_ended {s : State} (h : (emitAll s).inFlight = none) :
    ∃ (k : Pos) (a : Ack), (a = .ok → k = 3) ∧ (emitAll s).out = s.out ++ entriesUpTo s.p k a ∧
      (emitAll s).responses = s.responses ++ [⟨statusOfLast a, 0⟩] := by
  obtain ⟨hok, hfail⟩ := emitAll_ends s
  obtain ⟨rest, hin⟩ | ⟨k, hk, rest, hin⟩ | ⟨k, hk, rest, hin, hno⟩ := answers_cases 4 s.inputs
  · rw [Host.Outcome.next.inj (hok rest hin)]
    exact ⟨3, .ok, fun _ => rfl, rfl, rfl⟩
  · rw [Host.Outcome.next.inj (hfail ⟨k, hk⟩ rest hin)]
    exact ⟨⟨k, hk⟩, .fail, nofun, List.append_assoc _ _ _, rfl⟩
  · rw [Host.Outcome.next.inj (emitAll_waits s ⟨k, hk⟩ rest hin hno)] at h
    exact nomatch h

/-- The entries stand at positions 0 to `k`, in that order (R46). -/
theorem entriesUpTo_pos (p : Vector Pattern 4) (k : Pos) (a : Ack) :
    (entriesUpTo p k a).map (·.pos) = ([0, 1, 2, 3] : List Pos).take (k.val + 1) := by
  fin_cases k <;> rfl

/-- Every entry carries the address of its position (R42). -/
theorem addr_of_mem_entriesUpTo {p : Vector Pattern 4} {k : Pos} {a : Ack} :
    ∀ e ∈ entriesUpTo p k a, e.addr = digitAddr e.pos := by
  intro e he
  obtain he | he := List.mem_append.mp he
  · obtain ⟨i, -, rfl⟩ := List.mem_map.mp he
    rfl
  · obtain rfl := List.mem_singleton.mp he
    rfl

/-- Every entry but the last is answered `OK` (R101). -/
theorem ack_of_mem_dropLast_entriesUpTo {p : Vector Pattern 4} {k : Pos} {a : Ack} :
    ∀ e ∈ (entriesUpTo p k a).dropLast, e.ack = .ok := by
  rw [entriesUpTo, List.dropLast_concat]
  intro e he
  obtain ⟨i, -, rfl⟩ := List.mem_map.mp he
  rfl

/-- The response is `TRANSPORT_FAULT` exactly when the last answer is `FAIL` (R101). -/
theorem responses_eq_transportFault_iff (l : List Response) (a : Ack) :
    l ++ [⟨statusOfLast a, 0⟩] = l ++ [⟨.transportFault, 0⟩] ↔ a = .fail := by
  cases a <;> simp [statusOfLast]

/-- Settles O23: the stage adds the entries up to its last answer (`emitAll_ended`), whose shape the lemmas on
`entriesUpTo` give. -/
theorem shapeOfAnEmissionRun : Obligations.ShapeOfAnEmissionRun := by
  intro s h
  obtain ⟨k, a, hk, hout, hresp⟩ := emitAll_ended h
  refine ⟨k.val + 1, entriesUpTo s.p k a, Nat.le_add_left 1 _, k.isLt, hout, entriesUpTo_pos s.p k a,
    fun e he => ?_, ack_of_mem_dropLast_entriesUpTo, ?_, ?_⟩
  · have haddr := addr_of_mem_entriesUpTo e he
    exact ⟨haddr, haddr ▸ digitAddr_ne_modeAddress e.pos⟩
  · rw [hresp, responses_eq_transportFault_iff, entriesUpTo, List.getLast?_concat]
    simp [entryAt]
  · rw [hresp, ne_eq, responses_eq_transportFault_iff]
    intro ha
    cases a with
    | ok => rw [hk rfl]; rfl
    | fail => exact absurd rfl ha

end Sys2Proof.Machine

/-! PROOFS. The composite display operation: what `DISPLAY` does and leaves (O18, O28), its laws (O49, O50, O51), the
sequence of stages it equals (O48), what it overwrites (O55), and the end-to-end scenario (O52). -/

namespace Sys2Proof.Machine

/-! ## `DISPLAY` in a ready block -/

/-- The word of `DISPLAY` is its opcode with the colon and the value below it (R110). -/
theorem encode_display_eq_or (v : Value) (c : Bool) :
    encode (.display v c) = 0x10000000 ||| ((BitVec.ofBool c).setWidth 32 <<< 16) ||| v.setWidth 32 :=
  (BitVec.setWidth_eq _).symm.trans
    (BitVec.setWidth_append_append_eq_shiftLeft_setWidth_or (b := 0x0800#15) (b' := BitVec.ofBool c))

/-- In a ready block `DISPLAY` ends as the emit stage over the registers of its steps 1 to 3 does (R110). -/
theorem exec_display_ends (v : Value) (c : Bool) {s : State} (h : s.Ready) :
    EmitStageEnds (prepared v c s) (exec (.display v c) s) := by
  rw [exec_display_eq_emitAll v c h]
  exact emitAll_ends (prepared v c s)

/-- With four answers `OK` a ready block ends `DISPLAY` with (`OK`, 0) and the four patterns sent (R110). -/
theorem exec_display_of_answersOk (v : Value) (c : Bool) {s : State} {rest : List Input} (h : s.Ready)
    (hin : s.inputs = answersOk 4 ++ rest) :
    exec (.display v c) s = .next (answered .ok { prepared v c s with
      inputs := rest, inFlight := none, out := s.out ++ sentOk (patternsOf seg (digitsOf v) c) 4 }) :=
  (exec_display_ends v c h).1 rest hin

/-- Settles O18: the word by `encode_display_eq_or`, the end of the command by `exec_display_ends`. -/
theorem displayResult : Obligations.DisplayResult :=
  fun v c _ => ⟨encode_display_eq_or v c, exec_display_ends v c⟩

/-- Settles O28: the emit stage leaves what `prepared` put into the registers (`emitFrom_frame`, `emitFrom_out`). -/
theorem displayFrame : Obligations.DisplayFrame := by
  intro v c s t hr h
  rw [exec_display_eq_emitAll v c hr] at h
  cases h
  obtain ⟨hd, hdv, hp, hpv, hresets⟩ := emitFrom_frame positions (prepared v c s)
  exact ⟨hd, hdv, hp, hpv, hresets, emitFrom_out positions (prepared v c s)⟩

/-! ## The laws of `DISPLAY` -/

/-- Settles O49: the bytes sent are the patterns of the value's digits, which read back by `decimalShown_patternsOf`. -/
theorem displayReconstructsTheValue : Obligations.DisplayReconstructsTheValue := by
  intro v s rest hv hr hin
  refine ⟨_, _, exec_display_of_answersOk v false hr hin, rfl, ?_⟩
  rw [decimalShown_patternsOf, Nat.mod_eq_of_lt (Nat.lt_succ_of_le hv)]

/-- The colon is OR-ed into the second pattern (R90, R110). -/
theorem patternsOf_true_one (t : SegTable) (d : Vector Digit 4) :
    (patternsOf t d true)[1] = (patternsOf t d false)[1] ||| 0x80 := by
  simp [patternsOf]

/-- Without the colon bit 7 is clear in every pattern of an admissible table (R28b). -/
theorem patternsOf_false_getLsbD_seven {t : SegTable} (ht : t.Admissible) (d : Vector Digit 4) (i : Pos) :
    ((patternsOf t d false)[i]).getLsbD 7 = false := by
  rw [patternsOf_get, Bool.and_false, seg7_getLsbD_seven ht]

/-- Settles O50: the bytes are the patterns with and without the colon, which differ as `patternsOf_true_one` says. -/
theorem displayColonBit : Obligations.DisplayColonBit := by
  intro v s rest hr hin
  exact ⟨_, _, _, _, exec_display_of_answersOk v false hr hin, exec_display_of_answersOk v true hr hin, rfl, rfl,
    rfl, patternsOf_true_one seg _, rfl, rfl, patternsOf_false_getLsbD_seven seg_admissible _⟩

/-- Settles O51: `DISPLAY` uses its value through `digitsOf` alone, which `digitsOf_mod` says wraps around. -/
theorem displayWrapsAround : Obligations.DisplayWrapsAround := by
  intro v c s
  have hwrap : displayBody seg v c = displayBody seg (v % 10000) c := by
    funext u
    simp only [displayBody, prepare_eq_prepared, prepared, digitsOf_mod]
  rw [exec_eq_accept, exec_eq_accept, commandBody, commandBody, hwrap]

/-! ## The emit stage and the records of a run -/

/-- `s` with these responses given so far and this count of resets: the records of a run that no command reads. -/
def State.withRecords (before : List Response) (n : Nat) (s : State) : State :=
  { s with responses := before, resets := n }

/-- The emit stage does not read the records: it adds the same responses, each `OK` or `TRANSPORT_FAULT`, to any
(R101, R36). -/
theorem emitFrom_withRecords (l : List Pos) (s : State) :
    ∃ last : List Response, (∀ r ∈ last, r.status = .ok ∨ r.status = .transportFault) ∧
      ∀ before n, emitFrom l (s.withRecords before n) = (emitFrom l s).withRecords (before ++ last) n := by
  induction l generalizing s with
  | nil => exact ⟨[⟨.ok, 0⟩], by simp, fun _ _ => rfl⟩
  | cons i rest ih =>
    obtain ⟨r, hin, e⟩ | ⟨r, hin, e⟩ | ⟨hin, e⟩ := emitFrom_cons i rest s
    · obtain ⟨last, hlast, h⟩ := ih { s with inputs := r, out := s.out ++ [outEntry i s.p[i] .ok] }
      refine ⟨last, hlast, fun before n => ?_⟩
      rw [e, ← h, emitFrom, emit_answered (s := s.withRecords before n) hin]
      rfl
    · refine ⟨[⟨.transportFault, 0⟩], by simp, fun before n => ?_⟩
      rw [e, emitFrom, emit_answered (s := s.withRecords before n) hin]
      rfl
    · refine ⟨[], by simp, fun before n => ?_⟩
      rw [e, emitFrom, emit_unanswered (s := s.withRecords before n) hin, List.append_nil]
      rfl

/-- Steps 1 to 3 of `DISPLAY` overwrite every register: what they leave of two ready states with the same inputs and
the same `OUT` differs in the records alone (R110). -/
theorem prepared_eq_withRecords (v : Value) (c : Bool) {s t : State} (hs : s.Ready) (ht : t.Ready)
    (hin : s.inputs = t.inputs) (hout : s.out = t.out) :
    prepared v c t = (prepared v c s).withRecords t.responses t.resets := by
  simp only [prepared, State.withRecords, hin, hout, hs.1, hs.2, ht.1, ht.2]

/-- Settles O55: the two prepared states differ in the records alone, which the emit stage does not read
(`emitFrom_withRecords`). -/
theorem displayOverwritesStagedWork : Obligations.DisplayOverwritesStagedWork := by
  intro v c s t hs ht hin hout
  obtain ⟨last, -, hemit⟩ := emitFrom_withRecords positions (prepared v c s)
  refine ⟨_, _, exec_display_eq_emitAll v c hs, exec_display_eq_emitAll v c ht, ?_⟩
  rw [prepared_eq_withRecords v c hs ht hin hout, emitAll, emitAll, hemit]
  exact ⟨rfl, rfl, rfl, rfl, rfl, rfl⟩

/-! ## `DISPLAY` and its stages -/

/-- A step runs the command whose word is presented next (R33, R61). -/
theorem step_of_exec (i : Instr) {s t : State} {rest : List Input} (hin : s.inputs = .command (encode i) :: rest)
    (h : exec i { s with inputs := rest } = .next t) : step s = .next t :=
  (stepRunsDecodedCommand s _ rest i hin ((decode_eq_ok_iff _ i).mpr rfl)).trans h

/-- `BCD4` and then `ENC` leave what steps 1 to 3 of `DISPLAY` leave, and two responses (R80, R90, R111). -/
theorem steps_bcd4_enc (v : Value) (c : Bool) {s : State} {rest : List Input} (hr : s.Ready)
    (hin : s.inputs = hostSends [.bcd4 v, .enc c] ++ rest) :
    ∃ a, step s = .next a ∧ a.responses = s.responses ++ [⟨.ok, packDigits (digitsOf v)⟩] ∧
      step a = .next ((prepared v c { s with inputs := rest }).withRecords
        (a.responses ++ [⟨.ok, packPatterns (patternsOf seg (digitsOf v) c)⟩]) s.resets) := by
  refine ⟨_, step_of_exec (.bcd4 v) hin (exec_bcd4_ready v hr), rfl, ?_⟩
  exact step_of_exec (.enc c) rfl (exec_enc_valid c hr fun i => allSet_get i i.isLt)

/-- Whatever the records, `XMIT` over valid patterns does to the block what the emit stage does, and its responses are
those the emit stage gives (R100, R101). -/
theorem exec_xmit_withRecords {w : State} (hr : w.Ready) (hpv : ∀ i : Pos, w.pv[i] = true) :
    ∃ last : List Response, (∀ r ∈ last, r.status = .ok ∨ r.status = .transportFault) ∧
      (emitAll w).responses = w.responses ++ last ∧
      ∀ before n, exec .xmit (w.withRecords before n) = .next ((emitAll w).withRecords (before ++ last) n) := by
  obtain ⟨last, hlast, hemit⟩ := emitFrom_withRecords positions w
  refine ⟨last, hlast, congrArg State.responses (hemit w.responses w.resets), fun before n => ?_⟩
  exact (exec_xmit_eq_emitAll (s := w.withRecords before n) hr hpv).trans
    (congrArg Host.Outcome.next (hemit before n))

/-- Settles O48: `BCD4` and `ENC` are steps 1 to 3 of `DISPLAY` but for the records (`steps_bcd4_enc`), and whatever
those are `XMIT` is the emit stage (`exec_xmit_withRecords`). -/
theorem displayEqualsItsStages : Obligations.DisplayEqualsItsStages := by
  intro v c s env hr
  have hready : State.Ready { s with inputs := env } := hr
  have hdisplay := exec_display_eq_emitAll v c hready
  obtain ⟨a, ha, hresp, hb⟩ := steps_bcd4_enc v c (rest := hostSends [.xmit] ++ env)
    (s := { s with inputs := hostSends [.bcd4 v, .enc c, .xmit] ++ env }) hr rfl
  obtain ⟨last, hlast, hlastResp, hxmit⟩ :=
    exec_xmit_withRecords (w := prepared v c { s with inputs := env }) hr fun i => allSet_get i i.isLt
  obtain ⟨hd, -, hp, -, -⟩ := emitFrom_frame positions (prepared v c { s with inputs := env })
  refine ⟨a, _, _, _, ha, hb, step_of_exec .xmit rfl (hxmit _ _), step_of_exec (.display v c) rfl hdisplay,
    rfl, rfl, rfl, rfl, rfl, rfl, rfl, rfl, ?_, ?_, last, rfl, hlastResp, hlast⟩
  · exact hresp.trans (congrArg (fun d => s.responses ++ [⟨.ok, packDigits d⟩]) hd.symm)
  · exact congrArg (fun p => a.responses ++ [⟨.ok, packPatterns p⟩]) hp.symm

/-! ## The end-to-end scenario -/

/-- The patterns of 1234 with the colon, under the default table (R115, log 7). -/
theorem patternsOf_1234 : patternsOf seg (digitsOf 1234) true = #v[0x06, 0xDB, 0x4F, 0x66] := by decide

/-- Settles O52: the word decodes to `DISPLAY 1234, 1`, which sends the bytes of `patternsOf_1234`. -/
theorem endToEndScenario : Obligations.EndToEndScenario := by
  have hdecode : decode 0x100104D2 = .ok (.display 1234 true) := rfl
  refine ⟨hdecode, fun s rest hr hin => ?_⟩
  have hstep := (stepRunsDecodedCommand s _ _ _ hin hdecode).trans
    (exec_display_of_answersOk 1234 true (s := { s with inputs := answersOk 4 ++ rest }) hr rfl)
  refine ⟨_, hstep, ?_, rfl⟩
  rw [patternsOf_1234]
  rfl

end Sys2Proof.Machine

/-! PROOFS. The exceptions: a `FAIL` at any position (O30), `OUT` only grows (O34), a command repeats no emission and
stops at a `FAIL` (O24), the halted state (O29), the causes of `INVALID_ARG` (O31), and the order of the checks (O8). -/

namespace Sys2Proof.Machine

/-! ## What an emit stage adds to `OUT` -/

/-- Settles O30, by the emit stage's rule for a `FAIL` at its first remaining position. -/
theorem transportFaultAtAnyPosition : Obligations.TransportFaultAtAnyPosition :=
  fun k _ _ => emitFrom_positionsFrom_of_fail k

/-- Settles O34: a step leaves `OUT` alone or ends in an emit stage (`step_out`), which only adds to it. -/
theorem outOnlyGrows : Obligations.OutOnlyGrows := by
  intro s t h
  obtain hout | ⟨l, u, hu, rfl⟩ := step_out h
  · exact ⟨[], by rw [hout, List.append_nil]⟩
  · exact hu ▸ emitFrom_out l u

/-- An emit stage adds entries for its first positions, in their order, and only an entry answered `OK` has another
one after it (R101, R135). -/
theorem emitFrom_adds_prefix (l : List Pos) (s : State) :
    ∃ added, (emitFrom l s).out = s.out ++ added ∧ added.map (·.pos) <+: l ∧
      added.Pairwise fun e _ => e.ack = .ok := by
  induction l generalizing s with
  | nil => exact ⟨[], (List.append_nil _).symm, List.nil_prefix, .nil⟩
  | cons i rest ih =>
    obtain ⟨r, -, e⟩ | ⟨r, -, e⟩ | ⟨-, e⟩ := emitFrom_cons i rest s <;> rw [e]
    · obtain ⟨added, hout, hpos, hok⟩ := ih { s with inputs := r, out := s.out ++ [outEntry i s.p[i] .ok] }
      exact ⟨outEntry i s.p[i] .ok :: added, hout.trans (List.append_assoc _ _ _),
        (List.prefix_cons_inj i).mpr hpos, .cons (fun _ _ => rfl) hok⟩
    · exact ⟨[outEntry i s.p[i] .fail], rfl, ⟨rest, rfl⟩, List.pairwise_singleton _ _⟩
    · exact ⟨[], (List.append_nil _).symm, List.nil_prefix, .nil⟩

/-! ## What a command comes to once the halted check has passed -/

/-- The guard of `ENC` or of `XMIT` fails: a valid flag it reads is 0 (R121b, R121c). -/
def FailsGuard (i : Instr) (s : State) : Prop :=
  (∃ c, i = .enc c ∧ ∃ j : Pos, s.dv[j] = false) ∨ (i = .xmit ∧ ∃ j : Pos, s.pv[j] = false)

/-- `u` has the records and the `FAULT` of `s`. -/
def SameRecords (s u : State) : Prop := u.out = s.out ∧ u.responses = s.responses ∧ u.fault = s.fault

/-- A command writes registers and then ends in an emit stage over all positions or in a response, whose status is
`OK` unless the guard fails (R80, R81, R90, R100, R110). -/
theorem commandBody_emits_or_responds (i : Instr) (s : State) :
    ∃ u, SameRecords s u ∧ (commandBody i s = emitAll u ∨
      ∃ st x, (FailsGuard i s ∨ st = .ok) ∧ commandBody i s = respond st x u) := by
  cases i with
  | display v c =>
    refine ⟨prepare seg v c s, ?_, .inl rfl⟩
    rw [prepare_eq_prepared]
    exact ⟨rfl, rfl, rfl⟩
  | bcd4 v =>
    refine ⟨decompose v s, ?_, .inr ⟨_, _, .inr rfl, rfl⟩⟩
    rw [decompose_eq]
    exact ⟨rfl, rfl, rfl⟩
  | setd i x => exact ⟨writeDigit i x s, ⟨rfl, rfl, rfl⟩, .inr ⟨_, _, .inr rfl, rfl⟩⟩
  | enc c =>
    rw [commandBody, encBody]
    split
    · refine ⟨encodeLanes seg c positions s, ?_, .inr ⟨_, _, .inr rfl, rfl⟩⟩
      rw [encodeLanes_eq]
      exact ⟨rfl, rfl, rfl⟩
    · next hv =>
      have hguard := (allValid_eq_false_iff _).mp (Bool.eq_false_of_not_eq_true hv)
      exact ⟨s, ⟨rfl, rfl, rfl⟩, .inr ⟨_, _, .inl (.inl ⟨c, rfl, hguard⟩), rfl⟩⟩
  | xmit =>
    rw [commandBody, xmitBody]
    split
    · exact ⟨s, ⟨rfl, rfl, rfl⟩, .inl rfl⟩
    · next hv =>
      have hguard := (allValid_eq_false_iff _).mp (Bool.eq_false_of_not_eq_true hv)
      exact ⟨s, ⟨rfl, rfl, rfl⟩, .inr ⟨_, _, .inl (.inr ⟨rfl, hguard⟩), rfl⟩⟩

/-- A command leaves `OUT` as it is, or ends in one emit stage over all positions that starts from it (R100, R110). -/
theorem exec_out_unchanged_or_emits {i : Instr} {s t : State} (h : exec i s = .next t) :
    t.out = s.out ∨ ∃ u, u.out = s.out ∧ t = emitAll u := by
  obtain ⟨-, rfl⟩ | ⟨-, -, rfl⟩ := exec_next h
  · obtain ⟨u, ⟨hout, -, -⟩, e | ⟨st, x, -, e⟩⟩ := commandBody_emits_or_responds i s
    · exact .inr ⟨u, hout, e⟩
    · exact .inl (e ▸ hout)
  · exact .inl rfl

/-- Settles O24: what a command adds is what one emit stage adds (`emitFrom_adds_prefix`), and the positions of that
stage are distinct. -/
theorem noRetryWithinACommand : Obligations.NoRetryWithinACommand := by
  intro i s t h
  obtain hout | ⟨u, hout, rfl⟩ := exec_out_unchanged_or_emits h
  · exact ⟨[], by rw [hout, List.append_nil], .nil, fun _ _ _ hnil => absurd hnil (by simp)⟩
  · obtain ⟨added, hadd, hpos, hok⟩ := emitFrom_adds_prefix positions u
    have hpositions : positions.Nodup := by decide
    refine ⟨added, hout ▸ hadd, hpositions.sublist hpos.sublist, ?_⟩
    rintro before e after rfl hfail
    obtain ⟨-, htail, -⟩ := List.pairwise_append.mp hok
    obtain ⟨hafter, -⟩ := List.pairwise_cons.mp htail
    exact List.eq_nil_iff_forall_not_mem.mpr fun x hx => absurd (hfail.symm.trans (hafter x hx)) nofun

/-! ## How a command that passed its guard ends -/

/-- From `s` to `t` a command was executed: it waits, or it ended with `OK`, or with `TRANSPORT_FAULT` and then
`FAULT = 1` (R125). -/
def Executed (s t : State) : Prop :=
  (WaitsUnanswered s t ∧ t.fault = s.fault) ∨ (∃ x, EndsWith ⟨.ok, x⟩ s t ∧ t.fault = s.fault) ∨
  (EndsWith ⟨.transportFault, 0⟩ s t ∧ t.fault = true)

/-- The emit stage alone sets `FAULT`, with the response `TRANSPORT_FAULT` (R101, R122). -/
theorem emitFrom_executed (l : List Pos) (s : State) : Executed s (emitFrom l s) := by
  induction l generalizing s with
  | nil => exact .inr (.inl ⟨0, endsWith_respond .ok 0 s, rfl⟩)
  | cons i rest ih =>
    obtain ⟨r, -, e⟩ | ⟨r, -, e⟩ | ⟨-, e⟩ := emitFrom_cons i rest s <;> rw [e]
    · exact ih _
    · exact .inr (.inr ⟨⟨rfl, rfl⟩, rfl⟩)
    · exact .inl ⟨⟨i, rfl, rfl⟩, rfl⟩

/-- A command that passes its guard writes registers and then emits or responds `OK`, which is an execution either
way (R125). -/
theorem commandBody_executed {i : Instr} {s : State} (h : ¬ FailsGuard i s) : Executed s (commandBody i s) := by
  obtain ⟨u, ⟨-, hresp, hfault⟩, e | ⟨st, x, hst, e⟩⟩ := commandBody_emits_or_responds i s <;> rw [e]
  · have hu := emitFrom_executed positions u
    simp only [Executed, WaitsUnanswered, EndsWith, hresp, hfault] at hu
    exact hu
  · obtain rfl := hst.resolve_left h
    exact .inr (.inl ⟨x, ⟨rfl, hresp ▸ rfl⟩, hfault⟩)

namespace Executed

variable {s t : State}

/-- A command never clears `FAULT` (R25). -/
theorem keeps_fault (h : Executed s t) (hs : s.fault = true) : t.fault = true := by
  obtain ⟨-, hf⟩ | ⟨x, -, hf⟩ | ⟨-, hf⟩ := h
  · exact hf.trans hs
  · exact hf.trans hs
  · exact hf

/-- The response of an executed command is `OK` or `TRANSPORT_FAULT` (R121, R125). -/
theorem status_ne_invalidArg (h : Executed s t) {r : Response} (hr : t.responses = s.responses ++ [r]) :
    r.status ≠ .invalidArg := by
  obtain ⟨⟨k, -, hresp⟩, -⟩ | ⟨x, ⟨-, hresp⟩, -⟩ | ⟨⟨-, hresp⟩, -⟩ := h
  · simp [hresp] at hr
  · obtain rfl : ⟨.ok, x⟩ = r := by simpa [hresp] using hr
    nofun
  · obtain rfl : ⟨.transportFault, 0⟩ = r := by simpa [hresp] using hr
    nofun

/-- Executed with `FAULT = 0`, a command reports `TRANSPORT_FAULT` exactly when `FAULT` is then 1 (R122, R125). -/
theorem fault_iff (h : Executed s t) (hs : s.fault = false) :
    t.fault = true ↔ t.responses = s.responses ++ [⟨.transportFault, 0⟩] := by
  obtain ⟨⟨k, -, hresp⟩, hf⟩ | ⟨x, ⟨-, hresp⟩, hf⟩ | ⟨⟨-, hresp⟩, hf⟩ := h <;> simp [hresp, hf, hs]

/-- A command that ended with `FAULT = 0` has reported `OK` (R125). -/
theorem reports_ok (h : Executed s t) (ht : t.fault = false) (hidle : t.Idle) :
    ∃ x, t.responses = s.responses ++ [⟨.ok, x⟩] := by
  obtain ⟨⟨k, hk, -⟩, -⟩ | ⟨x, ⟨-, hresp⟩, -⟩ | ⟨-, hf⟩ := h
  · exact absurd (hk.symm.trans hidle) nofun
  · exact ⟨x, hresp⟩
  · exact absurd (hf.symm.trans ht) nofun

end Executed

/-! ## The halted state -/

/-- A halted block answers `HALTED` and changes nothing else (R123). -/
theorem accept_answers_halted (body : State → State) {s : State} (hi : s.Idle) (hf : s.fault = true) :
    accept body s = .next (answered .halted s) :=
  (accept_halted body hi hf).trans (congrArg Host.Outcome.next (respond_zero_of_idle hi .halted))

/-- A halted block answers every word `HALTED`, legal or reserved (R123). -/
theorem step_of_halted {s : State} {w : CmdWord} {rest : List Input} (hi : s.Idle) (hf : s.fault = true)
    (hin : s.inputs = .command w :: rest) : step s = .next (answered .halted { s with inputs := rest }) := by
  obtain ⟨body, hbody⟩ := present_eq w
  simp only [step, hin, hbody]
  exact accept_answers_halted body hi hf

/-- Settles O29: words and commands by `accept_answers_halted`; a step that is no reset only writes or emits, and
neither clears `FAULT`. -/
theorem haltedUntilReset : Obligations.HaltedUntilReset := by
  refine ⟨fun s hf hi => ⟨fun w rest => step_of_halted hi hf, fun i => ?_⟩, fun s t hf hin h => ?_⟩
  · rw [exec_eq_accept]
    exact accept_answers_halted _ hi hf
  · obtain ⟨rest, hr, -⟩ | hw | ⟨l, u, hw, rfl⟩ := step_reset_or_writes_or_emits h
    · exact absurd hr (hin rest)
    · exact hw.fault.trans hf
    · exact (emitFrom_executed l u).keeps_fault (hw.fault.trans hf)

/-! ## `INVALID_ARG` and the order of the checks -/

/-- A ready block answers a reserved word `INVALID_ARG` (R64, R121a). -/
theorem step_of_reserved {s : State} {w : CmdWord} {rest : List Input} {e : DecodeError} (hr : s.Ready)
    (hin : s.inputs = .command w :: rest) (hw : decode w = .error e) :
    step s = .next (answered .invalidArg { s with inputs := rest }) := by
  simp only [step, hin]
  exact present_reserved hw hr

/-- Settles O31: the three causes by their own rules; a command that passes its guard is executed, and
`Executed.status_ne_invalidArg` bounds its response. -/
theorem invalidArgCauses : Obligations.InvalidArgCauses := by
  refine fun s hr => ⟨fun w rest e => step_of_reserved hr, fun c => exec_enc_invalid c hr, exec_xmit_invalid hr,
    fun i t r h hresp hst => ?_⟩
  by_contra hguard
  rw [exec_ready i hr] at h
  cases h
  exact (commandBody_executed hguard).status_ne_invalidArg hresp hst

/-- Settles O8: each check by the rule of its answer, and a command that passes them all by `commandBody_executed`. -/
theorem orderOfChecks : Obligations.OrderOfChecks := by
  intro s w rest hi hin
  have hready (hf : s.fault = false) : State.Ready { s with inputs := rest } := ⟨hi, hf⟩
  have hstep {i : Instr} (hw : decode w = .ok i) := stepRunsDecodedCommand s w rest i hin hw
  refine ⟨fun hf => step_of_halted hi hf hin, fun hf e => step_of_reserved ⟨hi, hf⟩ hin,
    fun hf c hw hdv => (hstep hw).trans (exec_enc_invalid c (hready hf) hdv),
    fun hf hw hpv => (hstep hw).trans (exec_xmit_invalid (hready hf) hpv), fun hf i hw henc hxmit => ?_⟩
  have hguard : ¬ FailsGuard i { s with inputs := rest } := by
    rintro (⟨c, hc, j, hj⟩ | ⟨hx, j, hj⟩)
    · exact absurd ((henc c hc j).symm.trans hj) nofun
    · exact absurd ((hxmit hx j).symm.trans hj) nofun
  have hexec := commandBody_executed hguard
  exact ⟨_, (hstep hw).trans (exec_ready i (hready hf)), hexec.fault_iff hf, hexec.reports_ok⟩

end Sys2Proof.Machine

/-! PROOFS. Hazards: a word while a command runs (O11), an answer to no emission (O13), stale patterns (O54), and what
the display may show after a `FAIL` (O56). -/

namespace Sys2Proof.Machine

/-! ## A word or an answer that nothing waits for -/

/-- Settles O11: every word, legal or reserved, comes to the checks of `accept`, the first of which refuses it. -/
theorem commandWhileRunningRefused : Obligations.CommandWhileRunningRefused := by
  intro s k w rest hk hin
  obtain ⟨body, hbody⟩ := present_eq w
  simp only [step, hin, hbody]
  exact accept_running body hk

/-- Settles O13, by `answerArrives_idle`. -/
theorem strayAnswerHasNoEffect : Obligations.StrayAnswerHasNoEffect := by
  intro s a rest hi hin
  simp only [step, hin, answerArrives_idle hi, List.tail_cons]

/-! ## Stale patterns -/

/-- Settles O54: the frame of the digit commands (`digitCommandsFrame`) leaves a ready block with the patterns of
before, which `XMIT` then sends (`xmitResult`). -/
theorem stalePatternsAreSent : Obligations.StalePatternsAreSent := by
  intro i s rest hi hr
  have hexec := exec_ready i hr
  obtain ⟨hp, hpv, hfault, hflight, hout, hinputs, -, -⟩ := digitCommandsFrame i s _ hi hexec
  refine ⟨_, hexec, hp, hpv, fun hvalid hin => ?_⟩
  have hready : (commandBody i s).Ready := ⟨hflight.trans hr.1, hfault.trans hr.2⟩
  obtain ⟨hsends, -⟩ := xmitResult.2 _ hready
  obtain ⟨hsendsOk, -⟩ := hsends (hpv ▸ hvalid)
  refine ⟨_, hsendsOk rest (hinputs.trans hin), ?_, hready.2⟩
  rw [← hout, ← hp]
  rfl

/-! ## What the display may show -/

/-- The last entry of `OUT` acts on what the entries before it left. -/
theorem mayShow_concat (i : Pos) (out : List OutEntry) (e : OutEntry) :
    mayShow i (out ++ [e]) = showEntry i (mayShow i out) e := List.foldl_concat _ _ _ _

/-- An `OK` overwrites what its own position shows and no other (R53). -/
theorem mayShow_concat_ok (i j : Pos) (out : List OutEntry) (p : Vector Pattern 4) :
    mayShow i (out ++ [entryAt p .ok j]) = if i = j then [some p[i]] else mayShow i out := by
  rw [mayShow_concat, showEntry]
  by_cases h : j = i
  · simp [entryAt, h]
  · simp [entryAt, h, Ne.symm h]

/-- A `FAIL` adds its byte to what its own position may show, and to no other (R53, U5). -/
theorem mayShow_concat_fail (i k : Pos) (out : List OutEntry) (p : Vector Pattern 4) :
    mayShow i (out ++ [entryAt p .fail k]) = if i = k then some p[i] :: mayShow i out else mayShow i out := by
  rw [mayShow_concat, showEntry]
  by_cases h : k = i
  · simp [entryAt, h]
  · simp [entryAt, h, Ne.symm h]

/-- After these positions were sent and answered `OK`, they show their patterns, the others what they showed (R53). -/
theorem mayShow_append_sent (i : Pos) (l : List Pos) (out : List OutEntry) (p : Vector Pattern 4) :
    mayShow i (out ++ l.map (entryAt p .ok)) = if i ∈ l then [some p[i]] else mayShow i out := by
  induction l generalizing out with
  | nil => simp
  | cons j l ih =>
    rw [List.map_cons, List.append_cons, ih, mayShow_concat_ok]
    by_cases h : i ∈ l <;> simp [h]

/-- The positions sent before position `k` are those to its left (R46). -/
theorem mem_take_positions : ∀ i k : Pos, i ∈ positions.take k.val ↔ i < k := by decide

/-- What the positions may show after an emit stage that failed at `k` (R53, R146). -/
theorem mayShow_after_fail (i k : Pos) (out : List OutEntry) (p : Vector Pattern 4) :
    mayShow i (out ++ sentOk p k.val ++ [entryAt p .fail k]) =
      if i = k then some p[i] :: mayShow i out else if i < k then [some p[i]] else mayShow i out := by
  have hsent : mayShow i (out ++ sentOk p k.val) = if i < k then [some p[i]] else mayShow i out := by
    simp only [← mem_take_positions]
    exact mayShow_append_sent i _ out p
  rw [mayShow_concat_fail, hsent]
  by_cases h : i = k <;> simp [h]

/-- Settles O56: `DISPLAY` fails at `k` as `exec_display_ends` says, and `mayShow_after_fail` reads its entries. -/
theorem partialUpdateAfterFault : Obligations.PartialUpdateAfterFault := by
  intro v c s k rest hr hin
  refine ⟨_, (exec_display_ends v c hr).2 k rest hin, rfl, fun i => ?_⟩
  have hshow := mayShow_after_fail i k s.out (patternsOf seg (digitsOf v) c)
  refine ⟨fun h => hshow.trans ?_, fun h => hshow.trans ?_, fun h => hshow.trans ?_⟩
  · rw [if_neg h.ne, if_pos h]
  · exact if_pos h
  · rw [if_neg h.ne', if_neg h.asymm]

end Sys2Proof.Machine
